-- ==== Sys2Proof/Word.lean ====
section
/-! DEFINITION. The word of the bus (R9, R85), the binary32 datum as a word (R10), and the index types of the
block (R8, R12). -/

namespace Sys2Proof

/-- One bus word (R85). -/
abbrev Word := BitVec 32

/-- A binary32 datum, held as its word (R10). -/
abbrev F32 := BitVec 32

/-- A binary64 datum; only the sample rate of PREPARE is one (R88, R150). -/
abbrev F64 := BitVec 64

/-- Operator index 0..5 (R12). -/
abbrev OpIdx := Fin 6

/-- Envelope index: 0 primary, 1 secondary (R12). -/
abbrev EnvIdx := Fin 2

/-- LFO index: 0 LFO-1, 1 LFO-2 (R12). -/
abbrev LfoIdx := Fin 2

/-- Modulation slot index 0..7 (R12). -/
abbrev SlotIdx := Fin 8

/-- Destination index 0..54 (R124). -/
abbrev Dest := Fin 55

/-- The two kinds of register that hold a destination index (R124): a modulation slot's DEST, an LFO's DDEST. -/
inductive DestSite where
  | slot (j : SlotIdx)
  | direct (k : LfoIdx)
deriving DecidableEq, Repr

/-- The four sticky error flags of STATUS (R23, R384). -/
inductive ErrFlag where
  | seqErr
  | cfgErr
  | argErr
  | cmdErr
deriving DecidableEq, Repr

end Sys2Proof
end

