-- ==== Sys2Proof/Config.lean ====
section
/-! DEFINITION. The configuration record (R8, R48): what an implementation fixes, and the free values of
93_implementation_defined.md. No command changes any of it. The record of this instance is Config.params
(Machine/Params.lean); another instance is described by another record. -/

namespace Sys2Proof

/-- FLOAT of R8: the format of every datapath value. The spec gives arithmetic for one (R150). -/
inductive FloatFormat where
  | binary32
deriving DecidableEq, Repr

/-- MAP of R8: the shape of `map(x, lo, hi)`. The spec gives one (R161). -/
inductive MapShape where
  | linear
deriving DecidableEq, Repr

/-- ENV_CURVE of R8: the shape of an envelope's ramps. The spec gives one (R255, R256, R258). -/
inductive EnvCurve where
  | linear
deriving DecidableEq, Repr

/-- The implementation parameters of R8. NOPS, NENV, NLFO, NSLOTS, NDIRECT and NDEST, which the source fixes, are the
sizes of the index types of Word.lean. The three transcendental units are held as an accuracy and as what an
implementation is free in beside it; Machine/Units.lean forms them. Log 23. -/
structure Parameters where
  /-- HEADROOM -/
  headroom : F32
  /-- GAIN_RANGE -/
  gainLo : F32
  gainHi : F32
  /-- RATIO_RANGE -/
  ratioLo : F32
  ratioHi : F32
  /-- CELL_RANGE -/
  cellLo : F32
  cellHi : F32
  /-- CTX1_RANGE -/
  ctx1Lo : F32
  ctx1Hi : F32
  /-- FLOAT -/
  float : FloatFormat
  /-- FTZ: a rounded result below the normal range becomes a zero of its sign -/
  ftz : Bool
  /-- SIN_ERR of R170 (S5), in units of 2^-149 -/
  sinErr : Nat
  /-- the sine unit's word minus the reference's, for a positive operand up to 64; beyond, its word -/
  sinOff : F32 → Word
  /-- ASIN_ERR of R171 (A4), in units of 2^-149 -/
  asinErr : Nat
  /-- the arcsine unit's word minus the reference's, for a positive operand up to 1 -/
  asinOff : F32 → Word
  /-- TAN_ERR of R172 (T3), relative, in units of 2^-149 -/
  tanErr : Nat
  /-- how far above the midpoint below a result word the tangent unit steps up to it, in units of 2^-213 -/
  tanBias : Nat → Int
  /-- the tangent unit's word for an operand outside its domain (U4) -/
  tanOutside : F32 → Word
  /-- MAP -/
  map : MapShape
  /-- REF_HZ -/
  refHz : F32
  /-- ENV_CURVE -/
  envCurve : EnvCurve
  /-- NOTE_HZ -/
  noteHz : List F32
  /-- FS_MIN, FS_MAX, as binary64 -/
  fsMin : F64
  fsMax : F64
  /-- BLOCK_MAX -/
  blockMax : Nat
  /-- the width of BLOCKSIZE and of the sample index (R28, R30) -/
  blockBits : Nat
  /-- NCH -/
  nch : Nat
  /-- the width of a delay index (R36) -/
  delayBits : Nat
  /-- SOUND_TAG -/
  soundTag : BitVec 24
  /-- NVOICES -/
  nVoices : Nat
  /-- WORD: the width of Word, which R10 needs to be that of a binary32 datum -/
  wordBits : Nat
  /-- CYCLES_PER_SAMPLE; no rule reads it (R440, U6) -/
  cyclesPerSample : Nat

/-- DELAY_DEPTH (R8, R36): a delay index of the given width names every word. -/
def Parameters.delayDepth (p : Parameters) : Nat := 2 ^ p.delayBits

namespace Config

/-- CYCLES_PER_SAMPLE, left open (R8, R440, U6). Log 18. -/
opaque cyclesPerSample : Nat

/-- Sign (bit 22) and payload (bits 21:0) of the quiet NaN of a draw (R156, U1): free for every draw. Log 4. -/
opaque freeNaN : Nat → BitVec 23

/-- What the sine unit is free in (R170, U5). Log 5. -/
opaque sinOff : F32 → Word

/-- What the arcsine unit is free in (R171, U5). Log 6. -/
opaque asinOff : F32 → Word

/-- What the tangent unit is free in on its domain (R172, U5). Log 7. -/
opaque tanBias : Nat → Int

/-- The tangent unit outside its domain (R172, U4). Log 7. -/
opaque tanOutside : F32 → Word

/-- The word OUTBUF holds at a bus address after the given number of hardware resets, until it is written (R86, U3):
free for every word. Log 8. -/
opaque powerUp : Nat → Nat → Word

end Config

end Sys2Proof
end

