-- ==== Sys2Proof/Machine/Params.lean ====
section
/-! DEFINITION. This instance's configuration record (R8), and the widths that follow from it. -/

namespace Sys2Proof

/-- The values of R8 (constants as R159 spells them; the rates as binary64). SIN_ERR is the 2^-24 that R170 gives for the
reference instance (log 5); for ASIN_ERR and TAN_ERR the spec gives no figure, and 2^-23 is the model's (DESIGN CHOICE,
logs 6 and 7). -/
@[reducible] def Config.params : Parameters where
  headroom := 0x3E4CCCCD#32
  gainLo := 0x00000000#32
  gainHi := 0x3F800000#32
  ratioLo := 0x3DCCCCCD#32
  ratioHi := 0x41A00000#32
  cellLo := 0xBF800000#32
  cellHi := 0x3F800000#32
  ctx1Lo := 0x00000000#32
  ctx1Hi := 0x3F800000#32
  float := .binary32
  ftz := false
  sinErr := 2 ^ 125
  sinOff := Config.sinOff
  asinErr := 2 ^ 126
  asinOff := Config.asinOff
  tanErr := 2 ^ 126
  tanBias := Config.tanBias
  tanOutside := Config.tanOutside
  map := .linear
  refHz := 0x43DC0000#32
  envCurve := .linear
  noteHz := Machine.noteRom
  fsMin := 0x40E5888000000000#64
  fsMax := 0x4107700000000000#64
  blockMax := 4096
  blockBits := 13
  nch := 2
  delayBits := 17
  soundTag := 1#24
  nVoices := 1
  wordBits := 32
  cyclesPerSample := Config.cyclesPerSample

/-- A delay index, 0..DELAY_DEPTH-1 (R36). -/
abbrev DelayIdx := BitVec Config.params.delayBits

/-- A number of samples of a block, 0..BLOCK_MAX (R28, R30). -/
abbrev BlockCount := BitVec Config.params.blockBits

end Sys2Proof
end

