-- ==== Sys2Proof/Syntax.lean ====
section
/-! DEFINITION. The instructions: one constructor for each row of spec/opcode_table.json (R3, R133). The nine
commands carry the operands of their command word (R113); a selector row carries the register the selector word stands
in; a sequencer row carries the index it works on. -/

namespace Sys2Proof

/-- An instruction of the block: a command or a micro-operation (R3). -/
inductive Instr where
  -- commands (R116)
  | nop
  | prepare
  | canplay (tag : BitVec 24)
  | startnote (note : BitVec 7)
  | stopnote (tail : Bool)
  | setparams
  | render
  | isactive
  | ctrl (cc : BitVec 7)
  -- MODE words (R120)
  | opOsc (i : OpIdx)
  | opLpf (i : OpIdx)
  | opComb (i : OpIdx)
  | opPass (i : OpIdx) (value : Word)
  -- WAVE words (R121)
  | waveSine (k : LfoIdx)
  | waveTriangle (k : LfoIdx)
  | waveSaw (k : LfoIdx)
  | waveSquare (k : LfoIdx)
  -- SRC words (R122)
  | srcLfo1 (j : SlotIdx)
  | srcLfo2 (j : SlotIdx)
  | srcModwheel (j : SlotIdx)
  -- ENVSRC words (R123)
  | envsrcPrimary (i : OpIdx)
  | envsrcSecondary (i : OpIdx)
  -- DEST and DDEST words (R124)
  | destNone (site : DestSite)
  | destGain0 (site : DestSite)
  | destGain1 (site : DestSite)
  | destGain2 (site : DestSite)
  | destGain3 (site : DestSite)
  | destGain4 (site : DestSite)
  | destGain5 (site : DestSite)
  | destRatio0 (site : DestSite)
  | destRatio1 (site : DestSite)
  | destRatio2 (site : DestSite)
  | destRatio3 (site : DestSite)
  | destRatio4 (site : DestSite)
  | destRatio5 (site : DestSite)
  | destCtx1_0 (site : DestSite)
  | destCtx1_1 (site : DestSite)
  | destCtx1_2 (site : DestSite)
  | destCtx1_3 (site : DestSite)
  | destCtx1_4 (site : DestSite)
  | destCtx1_5 (site : DestSite)
  | destCell00 (site : DestSite)
  | destCell01 (site : DestSite)
  | destCell02 (site : DestSite)
  | destCell03 (site : DestSite)
  | destCell04 (site : DestSite)
  | destCell05 (site : DestSite)
  | destCell10 (site : DestSite)
  | destCell11 (site : DestSite)
  | destCell12 (site : DestSite)
  | destCell13 (site : DestSite)
  | destCell14 (site : DestSite)
  | destCell15 (site : DestSite)
  | destCell20 (site : DestSite)
  | destCell21 (site : DestSite)
  | destCell22 (site : DestSite)
  | destCell23 (site : DestSite)
  | destCell24 (site : DestSite)
  | destCell25 (site : DestSite)
  | destCell30 (site : DestSite)
  | destCell31 (site : DestSite)
  | destCell32 (site : DestSite)
  | destCell33 (site : DestSite)
  | destCell34 (site : DestSite)
  | destCell35 (site : DestSite)
  | destCell40 (site : DestSite)
  | destCell41 (site : DestSite)
  | destCell42 (site : DestSite)
  | destCell43 (site : DestSite)
  | destCell44 (site : DestSite)
  | destCell45 (site : DestSite)
  | destCell50 (site : DestSite)
  | destCell51 (site : DestSite)
  | destCell52 (site : DestSite)
  | destCell53 (site : DestSite)
  | destCell54 (site : DestSite)
  | destCell55 (site : DestSite)
  -- reset, bus and delay RAM accesses (R410, R82, R83, R90); w = none is DRead, w = some v is DWrite of v
  | hwreset
  | busRead (a : Nat)
  | busWrite (a : Nat) (v : Word)
  | dReadDWrite (i : OpIdx) (k : DelayIdx) (w : Option F32)
  -- operator micro-operations (R200 to R202)
  | opPrepare (i : OpIdx)
  | opReset (i : OpIdx)
  | opProcess (i : OpIdx)
  -- envelope micro-operations (R250)
  | envLoad (e : EnvIdx)
  | envNoteon (e : EnvIdx)
  | envNoteoff (e : EnvIdx)
  | envKill (e : EnvIdx)
  | envStepIdle (e : EnvIdx)
  | envStepAttack (e : EnvIdx)
  | envStepDecay (e : EnvIdx)
  | envStepSustain (e : EnvIdx)
  | envStepRelease (e : EnvIdx)
  -- LFO micro-operations (R280)
  | lfoSync (k : LfoIdx)
  | lfoStep (k : LfoIdx)
  -- router, voice and output micro-operations (R231, R311, R310, R318, R320)
  | route
  | pm (i : OpIdx)
  | voiceSample
  | outAdd
  | complete
  -- the refusal (R384) and the note ROM (R176)
  | refuse (flag : ErrFlag) (cause : BitVec 8) (info : BitVec 24)
  | noteHz (note : BitVec 7)
deriving DecidableEq, Repr

end Sys2Proof
end

