-- ==== Sys2Proof/WellFormed.lean ====
section
/-! DEFINITION. Which instructions the spec's encodings and conditions admit: the checks that the operand types
do not already make. -/

namespace Sys2Proof

/-- A bus address has 14 bits (R80). -/
def busAddressOk (a : Nat) : Bool := decide (a < 0x4000)

/-- A MODE word selects pass-through when it is none of 0, 1, 2 (R120). -/
def passWordOk (v : Word) : Bool := decide (3 ≤ v.toNat)

/-- The flag that goes with each cause code (R385). -/
def causeFlag (cause : BitVec 8) : Option ErrFlag :=
  match cause.toNat with
  | 1 => some .seqErr
  | 2 | 3 | 4 | 5 | 6 => some .cfgErr
  | 7 | 8 | 9 | 12 => some .argErr
  | 10 | 11 => some .cmdErr
  | _ => none

/-- Well-formedness of an instruction. -/
def Instr.wellFormed : Instr → Bool
  | .opPass _ value => passWordOk value
  | .busRead a => busAddressOk a
  | .busWrite a _ => busAddressOk a
  | .refuse flag cause _ => decide (causeFlag cause = some flag)
  | _ => true

end Sys2Proof
end

