-- ==== Sys2Proof/Decode.lean ====
section
/-! DEFINITION. The decoder of command words (R112) and of selector words (R120 to R124), total and rejecting by
name, and after it the encoder. A word's meaning depends on where it stands (R110): in CMD, or in a selector register of
the snapshot; a Request says where. -/

namespace Sys2Proof

/-- A selector register of the parameter snapshot (R39, R110): which selector a word is. -/
inductive Site where
  | mode (i : OpIdx)
  | wave (k : LfoIdx)
  | src (j : SlotIdx)
  | envsrc (i : OpIdx)
  | dest (site : DestSite)
deriving DecidableEq, Repr

/-- What the next step is asked to do. The first three come from outside the block: the reset input (R410), a bus
read and a bus write (R82, R83). The last is one selector word, run as the micro-operation it selects. Log 1, log 3. -/
inductive Request where
  | reset
  | read (a : Nat)
  | write (a : Nat) (v : Word)
  | select (site : Site) (w : Word)
deriving DecidableEq, Repr

/-- A command and its operands (R116). -/
inductive Command where
  | nop
  | prepare
  | canplay (tag : BitVec 24)
  | startnote (note : BitVec 7)
  | stopnote (tail : Bool)
  | setparams
  | render
  | isactive
  | ctrl (cc : BitVec 7)
deriving DecidableEq, Repr

/-- Why a word selects no instruction. The first two are refused by the machine with CMD_ERR (R112); the third is a
selector word the spec reserves (R121 to R124). -/
inductive Reject where
  | unknownOpcode (info : BitVec 24)
  | reservedBits (info : BitVec 24)
  | reservedSelector (site : Site) (w : Word)
deriving DecidableEq, Repr

/-- The word address of CMD (R21). -/
def cmdAddr : Nat := 0x000

/-- OPC = w[31:24] (R111). -/
def opcField (w : Word) : BitVec 8 := w.extractLsb' 24 8

/-- IMM = w[23:0] (R111); TAG of format T (R113). -/
def immField (w : Word) : BitVec 24 := w.extractLsb' 0 24

/-- IMM[6:0]: NOTE of format N, CC of format C (R113, R114). -/
def imm7 (w : Word) : BitVec 7 := w.extractLsb' 0 7

/-- IMM[23:7], which formats N and C need 0 (R113). -/
def immAbove7 (w : Word) : BitVec 17 := w.extractLsb' 7 17

/-- IMM[0]: TAIL of format B (R113, R114). -/
def immBit0 (w : Word) : Bool := w.getLsbD 0

/-- IMM[23:1], which format B needs 0 (R113). -/
def immAbove1 (w : Word) : BitVec 23 := w.extractLsb' 1 23

/-- w[31:8], the information of a CMD_ERR refusal (R112). -/
def cmdInfo (w : Word) : BitVec 24 := w.extractLsb' 8 24

/-- A command word whose must-be-0 bits are checked (R113, R117). -/
def needZero (ok : Bool) (w : Word) (c : Command) : Except Reject Command :=
  if ok then .ok c else .error (.reservedBits (cmdInfo w))

/-- The decoder of a word written to CMD (R112, R116). -/
def decodeCommand (w : Word) : Except Reject Command :=
  match (opcField w).toNat with
  | 0 => needZero (immField w == 0) w .nop
  | 1 => needZero (immField w == 0) w .prepare
  | 2 => .ok (.canplay (immField w))
  | 3 => needZero (immAbove7 w == 0) w (.startnote (imm7 w))
  | 4 => needZero (immAbove1 w == 0) w (.stopnote (immBit0 w))
  | 5 => needZero (immField w == 0) w .setparams
  | 6 => needZero (immField w == 0) w .render
  | 7 => needZero (immField w == 0) w .isactive
  | 8 => needZero (immAbove7 w == 0) w (.ctrl (imm7 w))
  | _ => .error (.unknownOpcode (cmdInfo w))

/-- The instruction a command is. -/
def Command.toInstr : Command → Instr
  | .nop => .nop
  | .prepare => .prepare
  | .canplay tag => .canplay tag
  | .startnote note => .startnote note
  | .stopnote tail => .stopnote tail
  | .setparams => .setparams
  | .render => .render
  | .isactive => .isactive
  | .ctrl cc => .ctrl cc

/-- Destinations 0..18: none, gain, ratio, context-1 (R124). -/
def destInstrsLow : List (DestSite → Instr) :=
  [.destNone, .destGain0, .destGain1, .destGain2, .destGain3, .destGain4,
   .destGain5, .destRatio0, .destRatio1, .destRatio2, .destRatio3, .destRatio4,
   .destRatio5, .destCtx1_0, .destCtx1_1, .destCtx1_2, .destCtx1_3, .destCtx1_4,
   .destCtx1_5]

/-- Destinations 19..54: the matrix cells, row-major (R124). -/
def destInstrsCells : List (DestSite → Instr) :=
  [.destCell00, .destCell01, .destCell02, .destCell03, .destCell04, .destCell05,
   .destCell10, .destCell11, .destCell12, .destCell13, .destCell14, .destCell15,
   .destCell20, .destCell21, .destCell22, .destCell23, .destCell24, .destCell25,
   .destCell30, .destCell31, .destCell32, .destCell33, .destCell34, .destCell35,
   .destCell40, .destCell41, .destCell42, .destCell43, .destCell44, .destCell45,
   .destCell50, .destCell51, .destCell52, .destCell53, .destCell54, .destCell55]

/-- The instruction of destination index d standing at a site (R124). -/
def destInstr (d : Dest) (site : DestSite) : Instr :=
  ((destInstrsLow ++ destInstrsCells)[d.val]'(d.isLt)) site

/-- The decoder of a selector word at its register (R120 to R124). -/
def decodeSelector (site : Site) (w : Word) : Except Reject Instr :=
  match site with
  | .mode i =>
    match w.toNat with
    | 0 => .ok (.opOsc i)
    | 1 => .ok (.opLpf i)
    | 2 => .ok (.opComb i)
    | _ => .ok (.opPass i w)
  | .wave k =>
    match w.toNat with
    | 0 => .ok (.waveSine k)
    | 1 => .ok (.waveTriangle k)
    | 2 => .ok (.waveSaw k)
    | 3 => .ok (.waveSquare k)
    | _ => .error (.reservedSelector site w)
  | .src j =>
    match w.toNat with
    | 0 => .ok (.srcLfo1 j)
    | 1 => .ok (.srcLfo2 j)
    | 2 => .ok (.srcModwheel j)
    | _ => .error (.reservedSelector site w)
  | .envsrc i =>
    match w.toNat with
    | 0 => .ok (.envsrcPrimary i)
    | 1 => .ok (.envsrcSecondary i)
    | _ => .error (.reservedSelector site w)
  | .dest at_ =>
    if h : w.toNat < 55 then .ok (destInstr ⟨w.toNat, h⟩ at_) else .error (.reservedSelector site w)

/-- The instruction a request stands for: the reset, a bus access, a command where the access is a write to CMD
(R83), or the micro-operation a selector word selects. -/
def decode (r : Request) : Except Reject Instr :=
  match r with
  | .reset => .ok .hwreset
  | .read a => .ok (.busRead a)
  | .write a v => if a = cmdAddr then (decodeCommand v).map Command.toInstr else .ok (.busWrite a v)
  | .select site w => decodeSelector site w

/-- A number of spec/opcode_table.json as a request. The table numbers command words and selector words alike from 0
and does not say which register a number stands in: a number that is a legal command word is written to CMD, any other
one up to 54 is read as the DEST word of modulation slot 0, the selector with the most rows, and a larger one as the
MODE word of operator 0, the only selector that admits it. Log 3. -/
def tableRequest (nbits w : Nat) : Request :=
  let word := BitVec.ofNat 32 (w % 2 ^ nbits)
  match decodeCommand word with
  | .ok _ => .write cmdAddr word
  | .error _ => if word.toNat < 55 then .select (.dest (.slot 0)) word else .select (.mode 0) word

/-- The instruction the decoder reads from a number of the opcode table. -/
def decodeTableWord (nbits w : Nat) : Option Instr :=
  match decode (tableRequest nbits w) with
  | .ok i => some i
  | .error _ => none

/-! The encoder. -/

/-- The command word of an opcode and an immediate (R111). -/
def commandWord (opc : BitVec 8) (imm : BitVec 24) : Word := opc ++ imm

/-- A bus write to CMD of a command word. -/
def toCmd (opc : BitVec 8) (imm : BitVec 24) : Option Request := some (.write cmdAddr (commandWord opc imm))

/-- A selector word at a register. -/
def toSelector (site : Site) (w : Word) : Option Request := some (.select site w)

/-- A destination word (R124). -/
def toDest (site : DestSite) (d : Word) : Option Request := some (.select (.dest site) d)

/-- The request that stands for an instruction: its word where the spec encodes it. The sequencer's
micro-operations have no encoding (R133), and a bus write to CMD is the command it carries, so those give none. -/
def encode : Instr → Option Request
  | .nop => toCmd 0x00 0
  | .prepare => toCmd 0x01 0
  | .canplay tag => toCmd 0x02 tag
  | .startnote note => toCmd 0x03 (note.zeroExtend 24)
  | .stopnote tail => toCmd 0x04 ((BitVec.ofBool tail).zeroExtend 24)
  | .setparams => toCmd 0x05 0
  | .render => toCmd 0x06 0
  | .isactive => toCmd 0x07 0
  | .ctrl cc => toCmd 0x08 (cc.zeroExtend 24)
  | .opOsc i => toSelector (.mode i) 0
  | .opLpf i => toSelector (.mode i) 1
  | .opComb i => toSelector (.mode i) 2
  | .opPass i value => toSelector (.mode i) value
  | .waveSine k => toSelector (.wave k) 0
  | .waveTriangle k => toSelector (.wave k) 1
  | .waveSaw k => toSelector (.wave k) 2
  | .waveSquare k => toSelector (.wave k) 3
  | .srcLfo1 j => toSelector (.src j) 0
  | .srcLfo2 j => toSelector (.src j) 1
  | .srcModwheel j => toSelector (.src j) 2
  | .envsrcPrimary i => toSelector (.envsrc i) 0
  | .envsrcSecondary i => toSelector (.envsrc i) 1
  | .destNone site => toDest site 0
  | .destGain0 site => toDest site 1
  | .destGain1 site => toDest site 2
  | .destGain2 site => toDest site 3
  | .destGain3 site => toDest site 4
  | .destGain4 site => toDest site 5
  | .destGain5 site => toDest site 6
  | .destRatio0 site => toDest site 7
  | .destRatio1 site => toDest site 8
  | .destRatio2 site => toDest site 9
  | .destRatio3 site => toDest site 10
  | .destRatio4 site => toDest site 11
  | .destRatio5 site => toDest site 12
  | .destCtx1_0 site => toDest site 13
  | .destCtx1_1 site => toDest site 14
  | .destCtx1_2 site => toDest site 15
  | .destCtx1_3 site => toDest site 16
  | .destCtx1_4 site => toDest site 17
  | .destCtx1_5 site => toDest site 18
  | .destCell00 site => toDest site 19
  | .destCell01 site => toDest site 20
  | .destCell02 site => toDest site 21
  | .destCell03 site => toDest site 22
  | .destCell04 site => toDest site 23
  | .destCell05 site => toDest site 24
  | .destCell10 site => toDest site 25
  | .destCell11 site => toDest site 26
  | .destCell12 site => toDest site 27
  | .destCell13 site => toDest site 28
  | .destCell14 site => toDest site 29
  | .destCell15 site => toDest site 30
  | .destCell20 site => toDest site 31
  | .destCell21 site => toDest site 32
  | .destCell22 site => toDest site 33
  | .destCell23 site => toDest site 34
  | .destCell24 site => toDest site 35
  | .destCell25 site => toDest site 36
  | .destCell30 site => toDest site 37
  | .destCell31 site => toDest site 38
  | .destCell32 site => toDest site 39
  | .destCell33 site => toDest site 40
  | .destCell34 site => toDest site 41
  | .destCell35 site => toDest site 42
  | .destCell40 site => toDest site 43
  | .destCell41 site => toDest site 44
  | .destCell42 site => toDest site 45
  | .destCell43 site => toDest site 46
  | .destCell44 site => toDest site 47
  | .destCell45 site => toDest site 48
  | .destCell50 site => toDest site 49
  | .destCell51 site => toDest site 50
  | .destCell52 site => toDest site 51
  | .destCell53 site => toDest site 52
  | .destCell54 site => toDest site 53
  | .destCell55 site => toDest site 54
  | .hwreset => some .reset
  | .busRead a => some (.read a)
  | .busWrite a v => if a = cmdAddr then none else some (.write a v)
  | .dReadDWrite _ _ _ => none
  | .opPrepare _ => none
  | .opReset _ => none
  | .opProcess _ => none
  | .envLoad _ => none
  | .envNoteon _ => none
  | .envNoteoff _ => none
  | .envKill _ => none
  | .envStepIdle _ => none
  | .envStepAttack _ => none
  | .envStepDecay _ => none
  | .envStepSustain _ => none
  | .envStepRelease _ => none
  | .lfoSync _ => none
  | .lfoStep _ => none
  | .route => none
  | .pm _ => none
  | .voiceSample => none
  | .outAdd => none
  | .complete => none
  | .refuse _ _ _ => none
  | .noteHz _ => none

end Sys2Proof
end

