-- ==== Sys2Proof/Machine/State.lean ====
section
/-! DEFINITION. The state of the block (R20), the reasons a step can stop, and the state after hardware reset
(R50, R410). State is plain data. -/

namespace Sys2Proof.Machine

/-- VSTATE (R31). -/
inductive VState where
  | idle
  | active
  | releasing
deriving DecidableEq, Repr

/-- ESTAGE (R37, R251). -/
inductive EStage where
  | idle
  | attack
  | decay
  | sustain
  | release
deriving DecidableEq, Repr

/-- The envelope fields of one parameter set (R41). -/
structure EnvParams where
  attack : F32
  decay : F32
  sustain : F32
  release : F32
  retrig : Bool
deriving DecidableEq, Repr

/-- The LFO fields of one parameter set (R42), with the direct mapping of that LFO. Log 16. -/
structure LfoParams where
  freq : F32
  amount : F32
  wave : Fin 4
  sync : Bool
  ddest : Dest
  ddepth : F32
deriving DecidableEq, Repr

/-- The fields of one operator (R43). Log 16. -/
structure OpParams where
  mode : Word
  ratio : F32
  sgain : F32
  pgain : F32
  ctx1 : F32
  ctx2 : F32
  keytrk : F32
  envsrc : EnvIdx
deriving DecidableEq, Repr

/-- The fields of one modulation slot (R44). Log 16. -/
structure SlotParams where
  src : Fin 3
  dest : Dest
  amount : F32
deriving DecidableEq, Repr

/-- The ACT bank: the voice's copy of the parameter snapshot (R40). `matrix[i][j]` is the weight with which operator
j enters operator i (R12). -/
structure Snapshot where
  env : Vector EnvParams 2
  lfo : Vector LfoParams 2
  op : Vector OpParams 6
  slot : Vector SlotParams 8
  matrix : Vector (Vector F32 6) 6
deriving DecidableEq, Repr

/-- One envelope generator (R37). -/
structure Envelope where
  stage : EStage
  level : F32
  aInc : F32
  dDec : F32
  sus : F32
  rSamples : F32
  rDec : F32
  retrig : Bool
deriving DecidableEq, Repr

/-- One RAM: (word address, word) pairs, addresses strictly rising. Log 12. -/
abbrev Ram := List (Nat × Word)

/-- One operator's persistent state: phase (R34), filter integrators (R35), delay RAM and write index (R36). -/
structure Operator where
  ph : F32
  s1 : F32
  s2 : F32
  dly : Ram
  w : DelayIdx
deriving DecidableEq, Repr

/-- The values that live only inside one rendered sample (R20, R30): the sequencer indices n and i, and what each
micro-operation hands to the next. They are not the spec's state and are idle between commands. Log 2. -/
structure Seq where
  /-- sample index (R30) -/
  n : BlockCount
  /-- operator index (R30) -/
  i : OpIdx
  /-- waveform value w (R283) -/
  wave : F32
  /-- scaled LFO values lv0, lv1 (R283) -/
  lv : Vector F32 2
  /-- source value (R232) -/
  src : F32
  /-- offset array OFF (R230) -/
  off : Vector F32 55
  /-- modulated, clamped matrix weight (R311) -/
  weight : F32
  /-- envelope levels of this sample (R310 step 3) -/
  ev : Vector F32 2
  /-- the level selected by ENVSRC (R314) -/
  env : F32
  /-- phase-modulation sum (R311) -/
  pm : F32
  /-- modulated serial gain (R312) -/
  gain : F32
  /-- modulated ratio (R312) -/
  ratio : F32
  /-- modulated context-1 (R312) -/
  c1 : F32
  /-- target frequency (R312) -/
  thz : F32
  /-- word read from a delay RAM (R90) -/
  dval : F32
  /-- operator output (R200) -/
  out : F32
  /-- serial path (R316) -/
  chain : F32
  /-- parallel sum (R315) -/
  par : F32
  /-- output sample (R317) -/
  y : F32
deriving DecidableEq, Repr

/-- The state of the block (R20), and after it the model's own fields. -/
structure State where
  /-- operand registers (R22) -/
  arg0 : Word
  arg1 : Word
  arg2 : Word
  /-- STATUS bit 0 (R23) -/
  prepared : Bool
  /-- STATUS bit 6 (R23, R320) -/
  done : Bool
  /-- STATUS bits 8 to 11 (R23, R384) -/
  seqErr : Bool
  cfgErr : Bool
  argErr : Bool
  cmdErr : Bool
  /-- first refusal (R24) -/
  errinfo : Word
  /-- answer of CANPLAY and ISACTIVE (R25) -/
  result : Word
  /-- sample rate (R28) -/
  fs : F32
  /-- block size (R28) -/
  blockSize : BlockCount
  /-- note frequency (R29) -/
  noteHz : F32
  /-- voice state (R31) -/
  vstate : VState
  /-- mod-wheel scalar (R32) -/
  mw : F32
  /-- STAGE bank, word address minus 0x100 (R39) -/
  stage : Vector Word 164
  /-- ACT bank (R40) -/
  act : Snapshot
  /-- OPOUT (R33) -/
  opout : Vector F32 6
  /-- the six operators (R34 to R36) -/
  op : Vector Operator 6
  /-- the two envelopes (R37) -/
  env : Vector Envelope 2
  /-- LPH (R38) -/
  lph : Vector F32 2
  /-- OUTBUF, keyed by bus word address (R86) -/
  outbuf : Ram
  /-- MODEL: the requests still to be served, first first (R130). Log 1. -/
  requests : List Request
  /-- MODEL: the word the last bus read returned to the host (R82). Log 10. -/
  rdata : Word
  /-- MODEL: the transient values of the current sample. Log 2. -/
  seq : Seq
  /-- MODEL: how many NaN draws have been made (R156). Log 4. -/
  draws : Nat
  /-- MODEL: how many hardware resets there have been (U3). Log 8. -/
  epoch : Nat
deriving DecidableEq, Repr

/-- Why the machine stops with a fault. -/
inductive Fault where
  /-- Raised by BusRead and BusWrite at an address above 0x3FFF, which the 14-bit bus cannot carry (R80, R82). Safe:
  the hardware has no such access. Log 11. -/
  | noSuchAddress (a : Nat)
deriving DecidableEq, Repr

/-- Why the model gives an instruction no meaning. -/
inductive Refusal where
  /-- Raised by exec for an instruction without a meaning; none is left. Safe. -/
  | notModelled (mnemonic : String)
  /-- Raised by step for a selector word that R121 to R124 reserve, offered directly as a micro-operation. SETPARAMS
  refuses a snapshot that holds one, so the hardware never runs it. Safe. Log 3. -/
  | reservedSelector (site : Site) (w : Word)
deriving DecidableEq, Repr

/-- Outcome of a step of this machine. -/
abbrev Result := Host.Outcome State Fault Refusal

/-- An all-zero envelope parameter set (R50). -/
def EnvParams.zero : EnvParams := ⟨0, 0, 0, 0, false⟩

/-- An all-zero LFO parameter set (R50). -/
def LfoParams.zero : LfoParams := ⟨0, 0, 0, false, 0, 0⟩

/-- An all-zero operator parameter set (R50). -/
def OpParams.zero : OpParams := ⟨0, 0, 0, 0, 0, 0, 0, 0⟩

/-- An all-zero modulation slot (R50). -/
def SlotParams.zero : SlotParams := ⟨0, 0, 0⟩

/-- The all-zero ACT bank (R50). -/
def Snapshot.zero : Snapshot where
  env := Vector.replicate 2 EnvParams.zero
  lfo := Vector.replicate 2 LfoParams.zero
  op := Vector.replicate 6 OpParams.zero
  slot := Vector.replicate 8 SlotParams.zero
  matrix := Vector.replicate 6 (Vector.replicate 6 0)

/-- An operator after reset (R34 to R36); the delay RAM as all +0.0, as R36 allows. Log 9. -/
def Operator.zero : Operator := ⟨0, 0, 0, [], 0⟩

/-- An envelope after reset (R37). -/
def Envelope.zero : Envelope := ⟨.idle, 0, 0, 0, 0, 0, 0, false⟩

/-- The transient values when no sample is being rendered. Log 2. -/
def Seq.idle : Seq where
  n := 0
  i := 0
  wave := 0
  lv := Vector.replicate 2 0
  src := 0
  off := Vector.replicate 55 0
  weight := 0
  ev := Vector.replicate 2 0
  env := 0
  pm := 0
  gain := 0
  ratio := 0
  c1 := 0
  thz := 0
  dval := 0
  out := 0
  chain := 0
  par := 0
  y := 0

/-- The state after hardware reset (R50, R410). -/
def State.reset : State where
  arg0 := 0
  arg1 := 0
  arg2 := 0
  prepared := false
  done := false
  seqErr := false
  cfgErr := false
  argErr := false
  cmdErr := false
  errinfo := 0
  result := 0
  fs := 0
  blockSize := 0
  noteHz := 0
  vstate := .idle
  mw := 0
  stage := Vector.replicate 164 0
  act := Snapshot.zero
  opout := Vector.replicate 6 0
  op := Vector.replicate 6 Operator.zero
  env := Vector.replicate 2 Envelope.zero
  lph := Vector.replicate 2 0
  outbuf := []
  requests := []
  rdata := 0
  seq := Seq.idle
  draws := 0
  epoch := 0

end Sys2Proof.Machine
end

