-- ==== Sys2Proof/Machine/Float32.lean ====
section
/-! DEFINITION. Binary32 arithmetic (40_numerics.md R150 to R166): exact integers, one rounding, nearest even. Every
operation that can produce a NaN takes the NaN it then returns as its first argument (R156, log 4). -/

namespace Sys2Proof.Machine

/-! Constants (R159). -/

def fZero : F32 := 0x00000000#32
def fNegZero : F32 := 0x80000000#32
def fOne : F32 := 0x3F800000#32
def fNegOne : F32 := 0xBF800000#32
def fPi : F32 := 0x40490FDB#32
def fTwoPi : F32 := 0x40C90FDB#32
def fTwoOverPi : F32 := 0x3F22F983#32
def fFbMax : F32 := 0x3F7AE148#32
def fQScale : F32 := 0x411E6666#32
def fQMin : F32 := 0x3DCCCCCD#32
def fQMax : F32 := 0x41200000#32
def fFLo : F32 := 0x41A00000#32
def fFHi : F32 := 0x469C4000#32
def fFSpan : F32 := 0x469C1800#32
def fCfHi : F32 := 0x461C4000#32
def fCfSpan : F32 := 0x461BF000#32
def fCfMax : F32 := 0x468CA000#32

/-! The format (R10, R150). -/

/-- Sign bit, true for negative. -/
def f32Sign (x : F32) : Bool := x.getLsbD 31

/-- Exponent field w[30:23]. -/
def f32Exp (x : F32) : Nat := (x.extractLsb' 23 8).toNat

/-- Fraction field w[22:0]. -/
def f32Frac (x : F32) : Nat := (x.extractLsb' 0 23).toNat

/-- A NaN (R156). -/
def isNaN (x : F32) : Bool := f32Exp x == 255 && f32Frac x != 0

/-- Plus or minus infinity. -/
def isInf (x : F32) : Bool := f32Exp x == 255 && f32Frac x == 0

/-- Neither an infinity nor a NaN (R156). -/
def isFinite (x : F32) : Bool := f32Exp x != 255

/-- Plus or minus zero. -/
def isZero (x : F32) : Bool := f32Exp x == 0 && f32Frac x == 0

/-- The word with the given sign and the given low 31 bits. -/
def packF32 (neg : Bool) (mag : Nat) : F32 := BitVec.ofNat 32 ((if neg then 2 ^ 31 else 0) + mag)

/-- The low 31 bits of the infinities. -/
def infMag : Nat := 0x7F800000

/-- The sign flipped (R153). -/
def fneg (x : F32) : F32 := x ^^^ fNegZero

/-- The sign cleared. -/
def fabs (x : F32) : F32 := x &&& 0x7FFFFFFF#32

/-- Magnitude of a finite datum in units of 2^-149. -/
def fixMag (x : F32) : Nat := if f32Exp x = 0 then f32Frac x else (2 ^ 23 + f32Frac x) * 2 ^ (f32Exp x - 1)

/-- Exact value of a finite datum in units of 2^-149. -/
def fixVal (x : F32) : Int := if f32Sign x then -(fixMag x : Int) else (fixMag x : Int)

/-- The quotient p/q to the nearest integer, ties to even (R151). -/
def roundHalfEven (p q : Nat) : Nat :=
  let t := p / q
  let r := p % q
  if 2 * r < q then t else if q < 2 * r then t + 1 else t + t % 2

/-- How many low bits of a magnitude of n units of 2^-149 fall below the last place of a binary32 datum. -/
def roundShift (n : Nat) : Nat := if n < 2 ^ 24 then 0 else Nat.log2 n - 23

/-- The low 31 bits of the binary32 datum nearest p/q in units of 2^-149 (R151). A significand rounded up to 2^24
carries into the exponent field; a result beyond the largest finite datum is an infinity. -/
def roundMag (p q : Nat) : Nat :=
  let sh := roundShift (p / q)
  min infMag (sh * 2 ^ 23 + roundHalfEven p (q * 2 ^ sh))

/-- Flush to zero, where the instance has it (FTZ of R8, R151): a magnitude below the normal range becomes 0. -/
def flushMag (m : Nat) : Nat := if Config.params.ftz && decide (m < 2 ^ 23) then 0 else m

/-- The binary32 datum nearest the signed quotient p/q in units of 2^-149. -/
def roundF32 (neg : Bool) (p q : Nat) : F32 := packF32 neg (flushMag (roundMag p q))

/-- Quiet NaN of a given sign and payload (R156). -/
def quietNaN (b : BitVec 23) : F32 := (b.extractLsb' 22 1) ++ (0x1FF#9 ++ b.extractLsb' 0 22)

/-! Arithmetic (R152 to R155). -/

/-- `a + b` (R152). -/
def fadd (nan a b : F32) : F32 :=
  if isNaN a || isNaN b then nan
  else if isInf a then (if isInf b && f32Sign a != f32Sign b then nan else a)
  else if isInf b then b
  else
    let v := fixVal a + fixVal b
    if v = 0 then (if f32Sign a && f32Sign b then fNegZero else fZero)
    else roundF32 (decide (v < 0)) v.natAbs 1

/-- `a - b` (R153). -/
def fsub (nan a b : F32) : F32 := fadd nan a (fneg b)

/-- `a * b` (R154). -/
def fmul (nan a b : F32) : F32 :=
  let neg := f32Sign a != f32Sign b
  if isNaN a || isNaN b then nan
  else if isInf a || isInf b then (if isZero a || isZero b then nan else packF32 neg infMag)
  else roundF32 neg (fixMag a * fixMag b) (2 ^ 149)

/-- `a / b` (R155). -/
def fdiv (nan a b : F32) : F32 :=
  let neg := f32Sign a != f32Sign b
  if isNaN a || isNaN b then nan
  else if isInf a then (if isInf b then nan else packF32 neg infMag)
  else if isInf b then packF32 neg 0
  else if isZero b then (if isZero a then nan else packF32 neg infMag)
  else roundF32 neg (fixMag a * 2 ^ 149) (fixMag b)

/-! Comparisons (R157). -/

/-- Order of the data that are not NaNs; both zeros are 0. -/
def f32Key (x : F32) : Int :=
  let m := (x.extractLsb' 0 31).toNat
  if f32Sign x then -(m : Int) else (m : Int)

/-- `a < b` (R157). -/
def flt (a b : F32) : Bool := !isNaN a && !isNaN b && decide (f32Key a < f32Key b)

/-- `a <= b` (R157). -/
def fle (a b : F32) : Bool := !isNaN a && !isNaN b && decide (f32Key a ≤ f32Key b)

/-- `a > b` (R157). -/
def fgt (a b : F32) : Bool := flt b a

/-- `a >= b` (R157). -/
def fge (a b : F32) : Bool := fle b a

/-- `a == b` (R157): false with a NaN, true of the two zeros. No rule of the datapath uses it. -/
def feq (a b : F32) : Bool := !isNaN a && !isNaN b && decide (f32Key a = f32Key b)

/-- `a != b` (R157): true with a NaN. -/
def fne (a b : F32) : Bool := !feq a b

/-! Derived primitives (R160 to R166). -/

/-- `clamp(x, lo, hi)` (R160). -/
def clamp (x lo hi : F32) : F32 :=
  if isNaN x then lo else if flt x lo then lo else if fgt x hi then hi else x

/-- `map(x, lo, hi)` with the span hi - lo given (R161): for the linear shape one multiply, one add. Draws 2 NaNs. -/
def fmap (nan : Nat → F32) (x lo span : F32) : F32 :=
  match Config.params.map with
  | .linear => fadd (nan 1) lo (fmul (nan 0) x span)

/-- `floor32(x)` (R162). -/
def floor32 (nan x : F32) : F32 :=
  if isNaN x then nan
  else if 150 ≤ f32Exp x then x
  else if isZero x then x
  else
    let z := fixVal x / (2 ^ 149 : Int)
    roundF32 (decide (z < 0)) (z.natAbs * 2 ^ 149) 1

/-- `f2i(x)` (R163). -/
def f2i (x : F32) : Word :=
  if isNaN x || f32Sign x then 0
  else if isInf x then 0xFFFFFFFF#32
  else
    let t := fixMag x / 2 ^ 149
    if 2 ^ 32 ≤ t then 0xFFFFFFFF#32 else BitVec.ofNat 32 t

/-- `wrap(x)` (R166). Draws 6 NaNs. -/
def wrap (nan : Nat → F32) (x : F32) : F32 :=
  let q := floor32 (nan 1) (fdiv (nan 0) x fTwoPi)
  let r0 := fsub (nan 3) x (fmul (nan 2) q fTwoPi)
  let r1 := if flt r0 fZero then fadd (nan 4) r0 fTwoPi else r0
  let r2 := if fge r1 fTwoPi then fsub (nan 5) r1 fTwoPi else r1
  if fge r2 fZero && flt r2 fTwoPi then r2 else fZero

/-! Binary64, only for PREPARE (R164, R341). -/

/-- Exponent field of a binary64 datum. -/
def f64Exp (x : F64) : Nat := (x.extractLsb' 52 11).toNat

/-- Fraction field of a binary64 datum. -/
def f64Frac (x : F64) : Nat := (x.extractLsb' 0 52).toNat

/-- Sign bit of a binary64 datum. -/
def f64Sign (x : F64) : Bool := x.getLsbD 63

/-- A binary64 NaN. -/
def isNaN64 (x : F64) : Bool := f64Exp x == 2047 && f64Frac x != 0

/-- Order of the binary64 data that are not NaNs. -/
def f64Key (x : F64) : Int :=
  let m := (x.extractLsb' 0 63).toNat
  if f64Sign x then -(m : Int) else (m : Int)

/-- `a < b` in binary64 (R341). -/
def flt64 (a b : F64) : Bool := !isNaN64 a && !isNaN64 b && decide (f64Key a < f64Key b)

/-- Magnitude of a finite binary64 datum in units of 2^-1074. -/
def fixMag64 (x : F64) : Nat := if f64Exp x = 0 then f64Frac x else (2 ^ 52 + f64Frac x) * 2 ^ (f64Exp x - 1)

/-- `f64_to_f32(d)` (R164): nearest even; 2^-149 is 2^925 units of 2^-1074. -/
def f64ToF32 (nan : F32) (d : F64) : F32 :=
  if isNaN64 d then nan
  else if f64Exp d = 2047 then packF32 (f64Sign d) infMag
  else roundF32 (f64Sign d) (fixMag64 d) (2 ^ 925)

end Sys2Proof.Machine
end

