-- ==== Sys2Proof/Machine/Units.lean ====
section
/-! DEFINITION. The transcendental units (R170 to R173): any functions with the stated properties. Each is formed from
its reference, the correctly rounded function, and from what the record leaves an implementation free in; where that
would break the accuracy the record states, the reference stands. A unit that has the properties is reached by its own
difference from the reference. The real functions are computed by their alternating series, exactly on integers. -/

namespace Sys2Proof.Machine

/-! The series of an operand x/q. A rational result is a pair of numerator and denominator. -/

/-- One, in the units of a magnitude: 2^149 units of 2^-149. -/
def unitOne : Nat := 2 ^ 149

/-- `1 - (x/q)^2/(i(i+1)) * (1 - (x/q)^2/((i+2)(i+3)) * ( ... ))` with n brackets after the first. -/
def altSeries (q x : Nat) : (n i : Nat) → Int × Nat
  | 0, _ => (1, 1)
  | n + 1, i =>
    let h := altSeries q x n (i + 2)
    let d : Nat := h.2 * (i * (i + 1)) * q ^ 2
    ((d : Int) - (x : Int) ^ 2 * h.1, d)

/-- q times the sine of x/q, from n terms after the first. -/
def sinSeries (q x n : Nat) : Int × Nat :=
  let h := altSeries q x n 2
  (x * h.1, h.2)

/-- The cosine of x/q, from n terms after the first. -/
def cosSeries (q x n : Nat) : Int × Nat := altSeries q x n 1

/-- Terms that bring the error of the series below 2^-149 for every operand up to 64. -/
def sinTerms : Nat := 130

/-- Terms that do so for every operand up to 2. -/
def shortTerms : Nat := 24

/-- The largest r < 2^n for which p is true, for a p that is true of 0 and false past the first number it is false of;
of any p, what the search by halves finds. -/
def searchBits (p : Nat → Bool) : (n acc : Nat) → Nat
  | 0, acc => acc
  | n + 1, acc => searchBits p n (if p (acc + 2 ^ n) then acc + 2 ^ n else acc)

/-- Magnitude of a word below the infinities, given as a number. -/
def wordMag (m : Nat) : Nat := fixMag (BitVec.ofNat 32 m)

/-- Twice the midpoint between a word's magnitude and that of the word below it. -/
def midBelow (m : Nat) : Nat := wordMag (m - 1) + wordMag m

/-- Give a magnitude the sign of x (oddness of R170 (S4) and R171 (A2)). -/
def withSignOf (x m : F32) : F32 := if f32Sign x then fneg m else m

/-! sin32 (R170). -/

/-- The largest operand for which R170 (S5) asks for accuracy, 64. -/
def fSinDomain : F32 := 0x42800000#32

/-- The reference sine of a positive operand up to 64: the datum nearest the sine (R170). -/
def sinRef (x : F32) : F32 :=
  let t := sinSeries unitOne (fixMag x) sinTerms
  roundF32 (decide (t.1 < 0)) t.1.natAbs t.2

/-- v is a sine of x accurate to SIN_ERR (R170 (S5)); one unit of 2^-149 is left for the error of the series. -/
def sinAccurate (x v : F32) : Bool :=
  let t := sinSeries unitOne (fixMag x) sinTerms
  isFinite v && decide ((fixVal v * t.2 - t.1).natAbs + t.2 ≤ Config.params.sinErr * t.2)

/-- The sine unit on a positive finite operand. -/
def sinUnit (x : F32) : F32 :=
  if fle x fSinDomain then
    let v := sinRef x + Config.params.sinOff x
    if sinAccurate x v then v else sinRef x
  else Config.params.sinOff x

/-- `sin32(x)` with properties (S1) to (S5) of R170. At -0.0 it returns -0.0, as (S3) and (S4) together ask. Log 5. -/
def sin32 (nan x : F32) : F32 :=
  if !isFinite x then nan
  else if isZero x then x
  else withSignOf x (clamp (sinUnit (fabs x)) fNegOne fOne)

/-! asin32 (R171). -/

/-- The largest magnitude of an arcsine (R171 (A1)). -/
def fHalfPi : F32 := 0x3FC90FDB#32

/-- -pi/2 as binary32 (R171 (A1)). -/
def fNegHalfPi : F32 := 0xBFC90FDB#32

/-- The sine of v/q is at most x/q, with the given room in units of 1/q. -/
def sinAtMost (q v x room : Nat) : Bool :=
  let t := sinSeries q v shortTerms
  decide (t.1 + room * t.2 ≤ x * t.2)

/-- The sine of v/q is at least x/q, with the given room in units of 1/q. -/
def sinAtLeast (q v x room : Nat) : Bool :=
  let t := sinSeries q v shortTerms
  decide ((x + room) * t.2 ≤ t.1)

/-- The reference arcsine of a positive operand up to 1 (R171): the largest word such that the sine of the midpoint
below it is at most the operand. -/
def asinRef (x : F32) : F32 :=
  BitVec.ofNat 32 (searchBits (fun m =>
    decide (m ≤ fHalfPi.toNat) && sinAtMost (2 * unitOne) (midBelow m) (2 * fixMag x) 0) 31 0)

/-- v is an arcsine of x in the range of (A1), accurate to ASIN_ERR (R171 (A4)): the sine of v - ASIN_ERR is at most x,
and that of v + ASIN_ERR at least x; the sine is increasing up to pi/2. -/
def asinAccurate (x v : F32) : Bool :=
  let e := Config.params.asinErr
  let y := fixMag v
  decide (y ≤ fixMag fHalfPi) && (decide (y ≤ e) || sinAtMost unitOne (y - e) (fixMag x) 1)
    && (decide (fixMag fHalfPi ≤ y + e) || sinAtLeast unitOne (y + e) (fixMag x) 1)

/-- The arcsine unit on a positive operand up to 1. Its result has no sign bit: DESIGN CHOICE, since (A1) to (A4) would
let the arcsine of an operand not above ASIN_ERR be -0.0 or a small negative number. Log 6. -/
def asinUnit (x : F32) : F32 :=
  let v := asinRef x + Config.params.asinOff x
  if !f32Sign v && asinAccurate x v then v else asinRef x

/-- `asin32(x)` with properties (A1) to (A4) of R171. At -0.0 it returns -0.0, as (A2) asks. Log 6. -/
def asin32 (nan x : F32) : F32 :=
  if isNaN x || fgt (fabs x) fOne then nan
  else if isZero x then x
  else withSignOf x (clamp (asinUnit (fabs x)) fNegHalfPi fHalfPi)

/-! tan32 (R172). -/

/-- The largest binary32 datum not above 1.4249, the end of the required domain of tan32 (R172). -/
def fTanDomain : F32 := 0x3FB6631F#32

/-- The largest binary32 datum not above 6.81 (R172 (T1)). -/
def fTanMax : F32 := 0x40D9EB85#32

/-- The tangent in units of 2^-149, from the two series. -/
def tanSeries (x : Nat) : Nat × Nat :=
  let s := sinSeries unitOne x shortTerms
  let c := cosSeries unitOne x shortTerms
  (s.1.natAbs * c.2, s.2 * c.1.natAbs)

/-- The tangent t = num/den, in units of 2^-149, lies at or above where the unit steps up to word m. The word below m is
too low for TAN_ERR (R172 (T3)): above. Word m is too high for it: below. Otherwise the instance's own step decides, the
midpoint where the bias is 0. Each of the three stays true as t rises, so the unit is non-decreasing (T2). One unit of
2^-149 of TAN_ERR is left for the error of the series. -/
def tanReaches (num den m : Nat) : Bool :=
  let e := Config.params.tanErr - 1
  if wordMag (m - 1) * den * unitOne < num * (unitOne - e) then true
  else if num * (unitOne + e) < wordMag m * den * unitOne then false
  else decide (((midBelow m : Int) * 2 ^ 63 + Config.params.tanBias m) * den ≤ (num : Int) * 2 ^ 64)

/-- The tangent unit on a positive operand of its domain: the largest word it steps up to. -/
def tanUnit (x : F32) : F32 :=
  let t := tanSeries (fixMag x)
  BitVec.ofNat 32 (searchBits (fun m => decide (m ≤ fTanMax.toNat) && tanReaches t.1 t.2 m) 31 0)

/-- `tan32(x)` with properties (T1) to (T3) of R172 on its domain; free elsewhere (U4). At -0.0, which R172 does not
name and no rule passes, it returns -0.0: DESIGN CHOICE. Log 7. -/
def tan32 (x : F32) : F32 :=
  if fle fZero x && fle x fTanDomain then
    (if isZero x then x else clamp (tanUnit x) fZero fTanMax)
  else Config.params.tanOutside x

end Sys2Proof.Machine
end

