-- ==== Sys2Proof/Machine/Flags.lean ====
section
/-! DEFINITION. STATUS (R23): its storage bits, its derived bits, its word; the error flags and cause codes (R385). -/

namespace Sys2Proof.Machine

/-- Code of VSTATE (R31). -/
def vstateCode : VState → BitVec 2
  | .idle => 0
  | .active => 1
  | .releasing => 2

/-- Code of ESTAGE (R251). -/
def estageCode : EStage → BitVec 3
  | .idle => 0
  | .attack => 1
  | .decay => 2
  | .sustain => 3
  | .release => 4

/-- STATUS.ACTIVE, the source's isActive() (R23, R348). -/
def voiceActive (s : State) : Bool := s.vstate != .idle

/-- An envelope is active iff its stage is not idle (R261); STATUS bits 4 and 5. -/
def envActive (e : EnvIdx) (s : State) : Bool := s.env[e].stage != .idle

/-- Both envelopes are inactive (R320). -/
def bothEnvIdle (s : State) : Bool := !envActive 0 s && !envActive 1 s

/-- The word STATUS reads as (R23). Bit 7 and bits 31:12 read 0. -/
def statusWord (s : State) : Word :=
  0#20 ++ BitVec.ofBool s.cmdErr ++ BitVec.ofBool s.argErr ++ BitVec.ofBool s.cfgErr ++ BitVec.ofBool s.seqErr
    ++ 0#1 ++ BitVec.ofBool s.done ++ BitVec.ofBool (envActive 1 s) ++ BitVec.ofBool (envActive 0 s)
    ++ BitVec.ofBool (voiceActive s) ++ vstateCode s.vstate ++ BitVec.ofBool s.prepared

/-- Set one sticky error flag (R384). -/
def setErrFlag (flag : ErrFlag) (s : State) : State :=
  match flag with
  | .seqErr => { s with seqErr := true }
  | .cfgErr => { s with cfgErr := true }
  | .argErr => { s with argErr := true }
  | .cmdErr => { s with cmdErr := true }

/-! Cause codes (R385). -/

def causeNotPrepared : BitVec 8 := 1
def causeDest : BitVec 8 := 2
def causeSrc : BitVec 8 := 3
def causeWave : BitVec 8 := 4
def causeEnvsrc : BitVec 8 := 5
def causeFloat : BitVec 8 := 6
def causeRate : BitVec 8 := 7
def causeBlockSize : BitVec 8 := 8
def causeRange : BitVec 8 := 9
def causeOpcode : BitVec 8 := 10
def causeReserved : BitVec 8 := 11
def causeController : BitVec 8 := 12

/-- The word of a Boolean answer in RESULT (R25). -/
def resultWord (b : Bool) : Word := if b then 1 else 0

end Sys2Proof.Machine
end

