-- ==== Sys2Proof/Machine/Ops.lean ====
section
/-! DEFINITION. The named operations over memory and registers: the RAMs, the delay lines, OUTBUF, the STAGE bank, the
bus map (R81), the free NaNs, and the refusal, which is the block's only exception (R380, R384). There is no return from
it: after a refusal the block simply goes on (R391). -/

namespace Sys2Proof.Machine

/-! RAM as a canonical list. Log 12. -/

/-- The word listed at an address, if any. -/
def ramRead (a : Nat) : Ram → Option Word
  | [] => none
  | (b, v) :: m => if a = b then some v else ramRead a m

/-- List a word at an address, keeping addresses strictly rising. -/
def ramInsert (a : Nat) (v : Word) : Ram → Ram
  | [] => [(a, v)]
  | (b, u) :: m =>
    if a < b then (a, v) :: (b, u) :: m
    else if a = b then (a, v) :: m
    else (b, u) :: ramInsert a v m

/-- List nothing at an address. -/
def ramErase (a : Nat) : Ram → Ram
  | [] => []
  | (b, u) :: m => if a = b then m else (b, u) :: ramErase a m

/-- Every listed address is at least lo, and addresses rise strictly. -/
def ramRising (lo : Nat) : Ram → Bool
  | [] => true
  | (a, _) :: m => decide (lo ≤ a) && ramRising (a + 1) m

/-- The first bus address of OUTBUF, and the distance from one channel to the next (R81, R86). -/
def outbufBase : Nat := 0x1000
def outbufStride : Nat := 0x1000

/-- A bus address inside OUTBUF (R81, R86): the offset of a word below BLOCK_MAX in one of the NCH channels. -/
def isOutbuf (a : Nat) : Bool :=
  decide (outbufBase ≤ a ∧ (a - outbufBase) / outbufStride < Config.params.nch
    ∧ (a - outbufBase) % outbufStride < Config.params.blockMax)

/-- Canonical form of OUTBUF: addresses rise and lie in OUTBUF. An unlisted word reads as no value an entry could repeat
(log 8). -/
def outbufWf (m : Ram) : Bool := ramRising outbufBase m && m.all fun c => isOutbuf c.1

/-- Canonical form of a delay RAM: indices rise, lie below DELAY_DEPTH, and no entry is the +0.0 an unlisted word reads as. -/
def delayWf (m : Ram) : Bool := ramRising 0 m && m.all fun c => decide (c.1 < Config.params.delayDepth) && c.2 != 0

/-- All memory of the state is in canonical form. -/
def memoryWf (s : State) : Bool := outbufWf s.outbuf && s.op.toList.all fun o => delayWf o.dly

/-! Register files. -/

/-- Replace operator i's state. -/
def setOp (i : OpIdx) (o : Operator) (s : State) : State := { s with op := s.op.set i.val o i.isLt }

/-- Replace envelope e. -/
def setEnv (e : EnvIdx) (x : Envelope) (s : State) : State := { s with env := s.env.set e.val x e.isLt }

/-- Write LPH[k]. -/
def setLph (k : LfoIdx) (x : F32) (s : State) : State := { s with lph := s.lph.set k.val x k.isLt }

/-- Write OPOUT[i] (R33). -/
def setOpout (i : OpIdx) (x : F32) (s : State) : State := { s with opout := s.opout.set i.val x i.isLt }

/-- Replace the transient values of the sample. -/
def setSeq (q : Seq) (s : State) : State := { s with seq := q }

/-- The element d of the offset array (R230). -/
def offAt (d : Dest) (s : State) : F32 := s.seq.off[d]

/-! Free NaNs (R156). Log 4. -/

/-- The NaN of the k-th draw from now. -/
def State.nan (s : State) (k : Nat) : F32 := quietNaN (Config.freeNaN (s.draws + k))

/-- The NaNs from the k-th draw on. -/
def State.nanFrom (s : State) (k : Nat) : Nat → F32 := fun j => s.nan (k + j)

/-- Count k draws as made. -/
def drew (k : Nat) (s : State) : State := { s with draws := s.draws + k }

/-! Delay RAMs (R90, R91). -/

/-- `DRead(i, k)` (R90); an unlisted word is +0.0 (log 9). -/
def delayRead (i : OpIdx) (k : DelayIdx) (s : State) : F32 := (ramRead k.toNat s.op[i].dly).getD 0

/-- `DWrite(i, k, v)` (R90). -/
def delayWrite (i : OpIdx) (k : DelayIdx) (v : F32) (s : State) : State :=
  let o := s.op[i]
  let dly := if v = 0 then ramErase k.toNat o.dly else ramInsert k.toNat v o.dly
  setOp i { o with dly := dly } s

/-! OUTBUF (R86). -/

/-- The bus address of OUTBUF[c][k] (R86). -/
def outAddr (c k : Nat) : Nat := outbufBase + outbufStride * c + k

/-- The word at an OUTBUF address; one that nothing has written since reset is free (U3, log 8). -/
def outbufRead (a : Nat) (s : State) : Word := (ramRead a s.outbuf).getD (Config.powerUp s.epoch a)

/-- Write a word at an OUTBUF address; elsewhere nothing is written. -/
def outbufWrite (a : Nat) (v : Word) (s : State) : State :=
  if isOutbuf a then { s with outbuf := ramInsert a v s.outbuf } else s

/-! The STAGE bank (R39). -/

/-- The first and last word address of the STAGE bank (R39). -/
def stageBase : Nat := 0x100
def stageLast : Nat := 0x1A3

/-- What a STAGE word is (R41 to R46, R342); a reserved word is none of these. -/
inductive FieldKind where
  | float
  | flag
  | mode
  | wave
  | src
  | envsrc
  | dest
deriving DecidableEq, Repr

/-- The kind of the STAGE word at a bus address, none for a reserved word or an address outside the bank (R39). -/
def stageKind (a : Nat) : Option FieldKind :=
  if a < 0x100 then none
  else if a < 0x110 then
    match (a - 0x100) % 8 with
    | 0 | 1 | 2 | 3 => some .float
    | 4 => some .flag
    | _ => none
  else if a < 0x120 then
    match (a - 0x110) % 8 with
    | 0 | 1 | 5 => some .float
    | 2 => some .wave
    | 3 => some .flag
    | 4 => some .dest
    | _ => none
  else if a = 0x120 then some .float
  else if a < 0x130 then none
  else if a < 0x160 then
    match (a - 0x130) % 8 with
    | 0 => some .mode
    | 7 => some .envsrc
    | _ => some .float
  else if a < 0x180 then
    match (a - 0x160) % 4 with
    | 0 => some .src
    | 1 => some .dest
    | 2 => some .float
    | _ => none
  else if a ≤ 0x1A3 then some .float
  else none

/-- The STAGE word at a bus address; a reserved word reads 0 (R39). -/
def stageRead (a : Nat) (s : State) : Word :=
  match stageKind a with
  | none => 0
  | some _ => s.stage[a - stageBase]?.getD 0

/-- Write the STAGE word at a bus address; a reserved word ignores it (R39). -/
def stageWrite (a : Nat) (v : Word) (s : State) : State :=
  match stageKind a with
  | none => s
  | some _ => { s with stage := s.stage.setIfInBounds (a - stageBase) v }

/-! The bus map (R81). -/

/-- The constant of the ID register (R27). -/
def idWord : Word := 0x53495836#32

/-- `BusRead(a)`: the word at a bus address (R81, R82, R84). -/
def busValue (a : Nat) (s : State) : Word :=
  match a with
  | 0x001 => s.arg0
  | 0x002 => s.arg1
  | 0x003 => s.arg2
  | 0x004 => statusWord s
  | 0x005 => s.errinfo
  | 0x006 => s.result
  | 0x007 => idWord
  | 0x008 => s.fs
  | 0x009 => s.blockSize.zeroExtend 32
  | 0x00A => s.noteHz
  | _ => if isOutbuf a then outbufRead a s else stageRead a s

/-- The plain store of `BusWrite(a, v)` at every address but CMD (R81, R83, R84). -/
def busStore (a : Nat) (v : Word) (s : State) : State :=
  match a with
  | 0x001 => { s with arg0 := v }
  | 0x002 => { s with arg1 := v }
  | 0x003 => { s with arg2 := v }
  | _ => if isOutbuf a then outbufWrite a v s else stageWrite a v s

/-! The refusal (R384), taken by every command that fails a check. -/

/-- `refuse(FLAG, cause, info)`: the sticky flag, and ERRINFO if no command was refused before; nothing else. -/
def takeRefusal (flag : ErrFlag) (cause : BitVec 8) (info : BitVec 24) (s : State) : State :=
  let t := setErrFlag flag s
  { t with errinfo := if t.errinfo = 0 then info ++ cause else t.errinfo }

end Sys2Proof.Machine
end

