-- ==== Sys2Proof/Machine/Operands.lean ====
section
/-! DEFINITION. Operand forms: the operands of commands (R113, R114), and the nominal parameters of ACT with the
router's offset added and clamped (R311, R312). -/

namespace Sys2Proof.Machine

/-! Command operands (R114). -/

/-- The sample rate of PREPARE, `ARG1 ++ ARG0` (R114, R88). -/
def rateOperand (s : State) : F64 := s.arg1 ++ s.arg0

/-- The block size of PREPARE, ARG2 (R114). -/
def blockSizeOperand (s : State) : Nat := s.arg2.toNat

/-- The start sample of RENDER, ARG0 (R114). -/
def startOperand (s : State) : Nat := s.arg0.toNat

/-- The number of samples of RENDER, ARG1 (R114). -/
def countOperand (s : State) : Nat := s.arg1.toNat

/-- The value of CTRL, `f32_of(ARG0)` (R114). -/
def controlOperand (s : State) : F32 := s.arg0

/-- Bits 23:0 of a word, the information of causes 8 and 9 (R385). -/
def info24 (w : Word) : BitVec 24 := w.extractLsb' 0 24

/-! Destination indices (R124). -/

/-- Index of GAIN[i]. -/
def gainDest (i : OpIdx) : Dest := ⟨1 + i.val, by omega⟩

/-- Index of RATIO[i]. -/
def ratioDest (i : OpIdx) : Dest := ⟨7 + i.val, by omega⟩

/-- Index of CTX1[i]. -/
def ctx1Dest (i : OpIdx) : Dest := ⟨13 + i.val, by omega⟩

/-- Index of CELL[i][j], `19 + 6*i + j`. -/
def cellDest (i j : OpIdx) : Dest := ⟨19 + 6 * i.val + j.val, by omega⟩

/-! Modulated parameters (R311, R312). Each draws one NaN, which the clamp absorbs. -/

/-- A nominal value with its offset added, clamped (R235). -/
def modulated (nan nominal off lo hi : F32) : F32 := clamp (fadd nan nominal off) lo hi

/-- Serial gain of operator i (R312). -/
def modGain (i : OpIdx) (s : State) : F32 :=
  modulated (s.nan 0) s.act.op[i].sgain (offAt (gainDest i) s) Config.params.gainLo Config.params.gainHi

/-- Ratio of operator i (R312). -/
def modRatio (i : OpIdx) (s : State) : F32 :=
  modulated (s.nan 0) s.act.op[i].ratio (offAt (ratioDest i) s) Config.params.ratioLo Config.params.ratioHi

/-- Context-1 of operator i (R312). -/
def modCtx1 (i : OpIdx) (s : State) : F32 :=
  modulated (s.nan 0) s.act.op[i].ctx1 (offAt (ctx1Dest i) s) Config.params.ctx1Lo Config.params.ctx1Hi

/-- Weight of matrix cell [i][j] (R311). -/
def modCell (i j : OpIdx) (s : State) : F32 :=
  modulated (s.nan 0) s.act.matrix[i][j] (offAt (cellDest i j) s) Config.params.cellLo Config.params.cellHi

/-- Put the modulated serial gain of operator i where the voice uses it. -/
def latchGain (i : OpIdx) (s : State) : State := drew 1 (setSeq { s.seq with gain := modGain i s } s)

/-- Put the modulated ratio of operator i where the voice uses it. -/
def latchRatio (i : OpIdx) (s : State) : State := drew 1 (setSeq { s.seq with ratio := modRatio i s } s)

/-- Put the modulated context-1 of operator i where the voice uses it. -/
def latchCtx1 (i : OpIdx) (s : State) : State := drew 1 (setSeq { s.seq with c1 := modCtx1 i s } s)

/-- Put the modulated weight of cell [i][j] where the matrix multiplexer uses it. -/
def latchCell (i j : OpIdx) (s : State) : State := drew 1 (setSeq { s.seq with weight := modCell i j s } s)

end Sys2Proof.Machine
end

