-- ==== Sys2Proof/Machine/Envelope.lean ====
section
/-! DEFINITION. The envelope generators (43_envelope.md). -/

namespace Sys2Proof.Machine

/-- Both envelopes (R12). -/
def allEnvs : List EnvIdx := [0, 1]

/-- The latched parameters ENV.LOAD computes from one parameter set (R252); stage, level and R_DEC stay. Draws 6
NaNs. -/
def loadEnvelope (nan : Nat → F32) (fs : F32) (p : EnvParams) (x : Envelope) : Envelope :=
  let sus := clamp p.sustain fZero fOne
  let a := fmul (nan 0) p.attack fs
  let d := fmul (nan 2) p.decay fs
  { x with
    sus := sus
    aInc := if fgt a fZero then fdiv (nan 1) fOne a else fOne
    dDec := if fgt d fZero then fdiv (nan 4) (fsub (nan 3) fOne sus) d else fOne
    rSamples := fmul (nan 5) p.release fs
    retrig := p.retrig }

/-- ENV.LOAD(e) (R252). -/
def envLoadStep (e : EnvIdx) (s : State) : State :=
  drew 6 (setEnv e (loadEnvelope s.nan s.fs s.act.env[e] s.env[e]) s)

def execEnvLoad (e : EnvIdx) (s : State) : Result := .next (envLoadStep e s)

/-- ENV.NOTEON(e): attack, from level 0 if the latched retrigger flag is set (R253). -/
def envNoteonStep (e : EnvIdx) (s : State) : State :=
  let x := s.env[e]
  setEnv e { x with stage := .attack, level := if x.retrig then fZero else x.level } s

def execEnvNoteon (e : EnvIdx) (s : State) : Result := .next (envNoteonStep e s)

/-- The release decrement (R259). Draws 1 NaN. -/
def releaseDec (nan : F32) (x : Envelope) : F32 :=
  let rd := if fgt x.rSamples fZero then fdiv nan x.level x.rSamples else x.level
  if fgt rd fZero then rd else x.level

/-- ENV.NOTEOFF(e): release, from any stage (R259). -/
def envNoteoffStep (e : EnvIdx) (s : State) : State :=
  let x := s.env[e]
  drew 1 (setEnv e { x with stage := .release, rDec := releaseDec (s.nan 0) x } s)

def execEnvNoteoff (e : EnvIdx) (s : State) : Result := .next (envNoteoffStep e s)

/-- ENV.KILL(e): idle, level +0.0 (R260). -/
def envKillStep (e : EnvIdx) (s : State) : State :=
  setEnv e { s.env[e] with stage := .idle, level := fZero } s

def execEnvKill (e : EnvIdx) (s : State) : Result := .next (envKillStep e s)

/-! The ramps of ENV_CURVE (R8, R255, R256, R258). -/

/-- One step up. -/
def rampUp (nan level inc : F32) : F32 :=
  match Config.params.envCurve with
  | .linear => fadd nan level inc

/-- One step down. -/
def rampDown (nan level dec : F32) : F32 :=
  match Config.params.envCurve with
  | .linear => fsub nan level dec

/-! ENV.STEP (R254 to R258): the new envelope for each stage. -/

/-- Idle: no change (R254). -/
def idleNext (x : Envelope) : Envelope := x

/-- Attack (R255). -/
def attackNext (nan : F32) (x : Envelope) : Envelope :=
  let l := rampUp nan x.level x.aInc
  if flt l fOne then { x with level := l } else { x with level := fOne, stage := .decay }

/-- Decay (R256). -/
def decayNext (nan : F32) (x : Envelope) : Envelope :=
  let l := rampDown nan x.level x.dDec
  if fgt l x.sus then { x with level := l } else { x with level := x.sus, stage := .sustain }

/-- Sustain (R257). -/
def sustainNext (x : Envelope) : Envelope := { x with level := x.sus }

/-- Release (R258). -/
def releaseNext (nan : F32) (x : Envelope) : Envelope :=
  let l := rampDown nan x.level x.rDec
  if fgt l fZero then { x with level := l } else { x with level := fZero, stage := .idle }

/-- Store an envelope and hand its updated level on as this sample's level of envelope e. -/
def putEnv (e : EnvIdx) (x : Envelope) (s : State) : State :=
  setSeq { s.seq with ev := s.seq.ev.set e.val x.level e.isLt } (setEnv e x s)

/-- Run a stage's rule on envelope e only if the envelope is in that stage: exactly one of R254 to R258 applies.
Log 13. -/
def whenStage (st : EStage) (e : EnvIdx) (f : State → State) (s : State) : State :=
  if s.env[e].stage = st then f s else s

def idleStep (e : EnvIdx) (s : State) : State := putEnv e (idleNext s.env[e]) s
def attackStep (e : EnvIdx) (s : State) : State := drew 1 (putEnv e (attackNext (s.nan 0) s.env[e]) s)
def decayStep (e : EnvIdx) (s : State) : State := drew 1 (putEnv e (decayNext (s.nan 0) s.env[e]) s)
def sustainStep (e : EnvIdx) (s : State) : State := putEnv e (sustainNext s.env[e]) s
def releaseStep (e : EnvIdx) (s : State) : State := drew 1 (putEnv e (releaseNext (s.nan 0) s.env[e]) s)

def execEnvStepIdle (e : EnvIdx) (s : State) : Result := .next (whenStage .idle e (idleStep e) s)
def execEnvStepAttack (e : EnvIdx) (s : State) : Result := .next (whenStage .attack e (attackStep e) s)
def execEnvStepDecay (e : EnvIdx) (s : State) : Result := .next (whenStage .decay e (decayStep e) s)
def execEnvStepSustain (e : EnvIdx) (s : State) : Result := .next (whenStage .sustain e (sustainStep e) s)
def execEnvStepRelease (e : EnvIdx) (s : State) : Result := .next (whenStage .release e (releaseStep e) s)

/-- ENV.STEP(e): the rule of the current stage. -/
def envStep (e : EnvIdx) (s : State) : State :=
  match s.env[e].stage with
  | .idle => idleStep e s
  | .attack => attackStep e s
  | .decay => decayStep e s
  | .sustain => sustainStep e s
  | .release => releaseStep e s

end Sys2Proof.Machine
end

