-- ==== Sys2Proof/Machine/Operator.lean ====
section
/-! DEFINITION. The operator (41_operator.md): oscillator, low-pass, comb, pass-through, dispatch, reset. The serial
input x is the chain value, and the other operands stand where the voice put them (R200, R313). -/

namespace Sys2Proof.Machine

/-- All operators in index order (R310). -/
def allOps : List OpIdx := [0, 1, 2, 3, 4, 5]

/-- Hand on an operator's output. -/
def setOut (x : F32) (s : State) : State := setSeq { s.seq with out := x } s

/-! OP.OSC (R204). -/

/-- `(PH + pm) + (c1 * TWO_PI)` (R204). Draws 3 NaNs. -/
def oscArg (nan : Nat → F32) (ph pmSum c1 : F32) : F32 :=
  fadd (nan 2) (fadd (nan 0) ph pmSum) (fmul (nan 1) c1 fTwoPi)

/-- The phase after one sample: `wrap(ph + (TWO_PI * hz) / FS)` (R204, R283). Draws 9 NaNs. -/
def advancePhase (nan : Nat → F32) (ph hz fs : F32) : F32 :=
  wrap (fun k => nan (3 + k)) (fadd (nan 2) ph (fdiv (nan 1) (fmul (nan 0) fTwoPi hz) fs))

/-- OP.OSC on operator i: the output from the phase before the advance, then the advance (R204). -/
def oscStep (i : OpIdx) (s : State) : State :=
  let o := s.op[i]
  let q := s.seq
  let out := fadd (s.nan 4) (sin32 (s.nan 3) (oscArg s.nan o.ph q.pm q.c1)) q.chain
  let ph := advancePhase (s.nanFrom 5) o.ph q.thz s.fs
  drew 14 (setOut out (setOp i { o with ph := ph } s))

def execOpOsc (i : OpIdx) (s : State) : Result := .next (oscStep i s)

/-! OP.LPF (R206, R207). -/

/-- Cutoff fc (R206). Draws 5 NaNs. -/
def lpfCutoff (nan : Nat → F32) (c1 kt noteHz : F32) : F32 :=
  clamp (fadd (nan 4) (fmap nan c1 fFLo fFSpan) (fmul (nan 3) (fsub (nan 2) noteHz Config.params.refHz) kt)) fFLo fFHi

/-- Resonance Q (R206). Draws 2 NaNs. -/
def lpfQ (nan : Nat → F32) (c2 : F32) : F32 :=
  clamp (fadd (nan 1) (fmul (nan 0) c2 fQScale) fQMin) fQMin fQMax

/-- What one filter sample gives: the output and the two new integrator states. -/
structure LpfOut where
  yLP : F32
  s1 : F32
  s2 : F32
deriving DecidableEq, Repr

/-- `g = tan32((PI * fc) / FS)` (R207). Draws 2 NaNs. -/
def lpfG (nan : Nat → F32) (fc fs : F32) : F32 := tan32 (fdiv (nan 1) (fmul (nan 0) fPi fc) fs)

/-- `h = ONE / ((ONE + (R2 * g)) + (g * g))` (R207). Draws 5 NaNs. -/
def lpfH (nan : Nat → F32) (r2 g : F32) : F32 :=
  fdiv (nan 4) fOne (fadd (nan 3) (fadd (nan 1) fOne (fmul (nan 0) r2 g)) (fmul (nan 2) g g))

/-- The recursion of R207 from g, R2 and h on. Draws 11 NaNs. -/
def lpfCore (nan : Nat → F32) (g r2 h x s1 s2 : F32) : LpfOut :=
  let yHP := fmul (nan 4) h (fsub (nan 3) (fsub (nan 2) x (fmul (nan 1) s1 (fadd (nan 0) g r2))) s2)
  let t := fmul (nan 5) yHP g
  let yBP := fadd (nan 6) t s1
  let u := fmul (nan 8) yBP g
  let yLP := fadd (nan 9) u s2
  { yLP := yLP, s1 := fadd (nan 7) t yBP, s2 := fadd (nan 10) u yLP }

/-- OP.LPF on operator i (R207). -/
def lpfStep (i : OpIdx) (s : State) : State :=
  let o := s.op[i]
  let p := s.act.op[i]
  let q := s.seq
  let fc := lpfCutoff s.nan q.c1 p.keytrk s.noteHz
  let res := lpfQ (s.nanFrom 5) p.ctx2
  let g := lpfG (s.nanFrom 7) fc s.fs
  let r2 := fdiv (s.nan 9) fOne res
  let h := lpfH (s.nanFrom 10) r2 g
  let y := lpfCore (s.nanFrom 15) g r2 h q.chain o.s1 o.s2
  drew 26 (setOut y.yLP (setOp i { o with s1 := y.s1, s2 := y.s2 } s))

def execOpLpf (i : OpIdx) (s : State) : Result := .next (lpfStep i s)

/-! DRead and DWrite (R90). -/

/-- Read a delay word for the sequencer (R90). -/
def delayFetch (i : OpIdx) (k : DelayIdx) (s : State) : State := setSeq { s.seq with dval := delayRead i k s } s

/-- DRead(i, k), or DWrite(i, k, v) where w = some v (R90). -/
def delayAccess (i : OpIdx) (k : DelayIdx) (w : Option F32) (s : State) : State :=
  match w with
  | none => delayFetch i k s
  | some v => delayWrite i k v s

def execDReadDWrite (i : OpIdx) (k : DelayIdx) (w : Option F32) (s : State) : Result := .next (delayAccess i k w s)

/-! OP.COMB (R210 to R212). -/

/-- Feedback fb (R210). -/
def combFeedback (c1 : F32) : F32 := clamp c1 fZero fFbMax

/-- Delay frequency dhz (R210). Draws 2 NaNs. -/
def combHz (nan : Nat → F32) (c2 : F32) : F32 := clamp (fmap nan c2 fFLo fCfSpan) fFLo fCfMax

/-- Delay length D in samples (R211). Draws 1 NaN. -/
def combDelay (nan fs dhz : F32) : Nat :=
  let d := (f2i (fdiv nan fs dhz)).toNat
  if d < 1 then 1 else if Config.params.delayDepth - 1 < d then Config.params.delayDepth - 1 else d

/-- OP.COMB on operator i (R212). -/
def combStep (i : OpIdx) (s : State) : State :=
  let w := s.op[i].w
  let x := s.seq.chain
  let fb := combFeedback s.seq.c1
  let len := combDelay (s.nan 2) s.fs (combHz s.nan s.act.op[i].ctx2)
  let s1 := delayFetch i (w - BitVec.ofNat Config.params.delayBits len) s
  let d := s1.seq.dval
  let s2 := delayWrite i w (fadd (s.nan 5) x (fmul (s.nan 4) d fb)) s1
  drew 6 (setOut (fadd (s.nan 3) x d) (setOp i { s2.op[i] with w := w + 1 } s2))

def execOpComb (i : OpIdx) (s : State) : Result := .next (combStep i s)

/-! OP.PASS (R214) and OP.PROCESS (R203). -/

/-- OP.PASS: the input, bit for bit (R214). -/
def passStep (s : State) : State := setOut s.seq.chain s

def execOpPass (_i : OpIdx) (_value : Word) (s : State) : Result := .next (passStep s)

/-- OP.PROCESS: dispatch on ACT.OP[i].MODE (R203). -/
def processStep (i : OpIdx) (s : State) : State :=
  match s.act.op[i].mode.toNat with
  | 0 => oscStep i s
  | 1 => lpfStep i s
  | 2 => combStep i s
  | _ => passStep s

def execOpProcess (i : OpIdx) (s : State) : Result := .next (processStep i s)

/-! OP.RESET and OP.PREPARE (R201, R202). -/

/-- OP.RESET on operator i: phase, integrators, delay RAM and write index to zero (R202). -/
def resetStep (i : OpIdx) (s : State) : State := setOp i Operator.zero s

def execOpReset (i : OpIdx) (s : State) : Result := .next (resetStep i s)

/-- OP.PREPARE allocates nothing and is OP.RESET (R201). -/
def prepareStep (i : OpIdx) (s : State) : State := resetStep i s

def execOpPrepare (i : OpIdx) (s : State) : Result := .next (prepareStep i s)

/-- OP.RESET on every operator in index order. -/
def resetAllOps (s : State) : State := allOps.foldl (fun t i => resetStep i t) s

end Sys2Proof.Machine
end

