-- ==== Sys2Proof/Machine/Lfo.lean ====
section
/-! DEFINITION. The LFO generators (44_lfo.md). -/

namespace Sys2Proof.Machine

/-- Both LFOs (R12). -/
def allLfos : List LfoIdx := [0, 1]

/-! Waveforms of a phase (R284 to R287). -/

/-- Sine (R284). Draws 1 NaN. -/
def sineWave (nan : Nat → F32) (ph : F32) : F32 := sin32 (nan 0) ph

/-- Triangle (R286). Draws 3 NaNs. -/
def triangleWave (nan : Nat → F32) (ph : F32) : F32 :=
  clamp (fmul (nan 2) (asin32 (nan 1) (sin32 (nan 0) ph)) fTwoOverPi) fNegOne fOne

/-- Saw (R285). Draws 2 NaNs. -/
def sawWave (nan : Nat → F32) (ph : F32) : F32 := fsub (nan 1) (fdiv (nan 0) ph fPi) fOne

/-- Square (R287). -/
def squareWave (ph : F32) : F32 := if flt ph fPi then fOne else fNegOne

/-- Hand on a waveform value. -/
def setWave (w : F32) (s : State) : State := setSeq { s.seq with wave := w } s

def sineStep (k : LfoIdx) (s : State) : State := drew 1 (setWave (sineWave s.nan s.lph[k]) s)
def triangleStep (k : LfoIdx) (s : State) : State := drew 3 (setWave (triangleWave s.nan s.lph[k]) s)
def sawStep (k : LfoIdx) (s : State) : State := drew 2 (setWave (sawWave s.nan s.lph[k]) s)
def squareStep (k : LfoIdx) (s : State) : State := setWave (squareWave s.lph[k]) s

def execWaveSine (k : LfoIdx) (s : State) : Result := .next (sineStep k s)
def execWaveTriangle (k : LfoIdx) (s : State) : Result := .next (triangleStep k s)
def execWaveSaw (k : LfoIdx) (s : State) : Result := .next (sawStep k s)
def execWaveSquare (k : LfoIdx) (s : State) : Result := .next (squareStep k s)

/-- WAVEFORM: dispatch on ACT.LFO[k].WAVE (R121, R283). -/
def waveStep (k : LfoIdx) (s : State) : State :=
  match s.act.lfo[k].wave with
  | 0 => sineStep k s
  | 1 => triangleStep k s
  | 2 => sawStep k s
  | 3 => squareStep k s

/-- LFO.STEP(k) after the waveform: scale it, then advance the phase (R283). Draws 10 NaNs. -/
def lfoFinish (k : LfoIdx) (s : State) : State :=
  let p := s.act.lfo[k]
  let lv := fmul (s.nan 0) s.seq.wave p.amount
  let ph := advancePhase (s.nanFrom 1) s.lph[k] p.freq s.fs
  drew 10 (setSeq { s.seq with lv := s.seq.lv.set k.val lv k.isLt } (setLph k ph s))

/-- LFO.STEP(k): the value from the phase before the advance, then the advance (R283). -/
def lfoStep (k : LfoIdx) (s : State) : State := lfoFinish k (waveStep k s)

def execLfoStep (k : LfoIdx) (s : State) : Result := .next (lfoStep k s)

/-- LFO.SYNC(k) (R281). -/
def lfoSyncStep (k : LfoIdx) (s : State) : State := if s.act.lfo[k].sync then setLph k fZero s else s

def execLfoSync (k : LfoIdx) (s : State) : Result := .next (lfoSyncStep k s)

end Sys2Proof.Machine
end

