-- ==== Sys2Proof/Machine/Router.lean ====
section
/-! DEFINITION. The modulation router (42_router.md): source selection, accumulation into OFF, ROUTE. -/

namespace Sys2Proof.Machine

/-- All modulation slots in order (R231). -/
def allSlots : List SlotIdx := [0, 1, 2, 3, 4, 5, 6, 7]

/-- Hand on a source value. -/
def setSrc (v : F32) (s : State) : State := setSeq { s.seq with src := v } s

/-! SRCVAL (R232). The slot the word stands in does not change the value. -/

def lfo1Source (s : State) : State := setSrc s.seq.lv[0] s
def lfo2Source (s : State) : State := setSrc s.seq.lv[1] s
def wheelSource (s : State) : State := setSrc s.mw s

def execSrcLfo1 (_j : SlotIdx) (s : State) : Result := .next (lfo1Source s)
def execSrcLfo2 (_j : SlotIdx) (s : State) : Result := .next (lfo2Source s)
def execSrcModwheel (_j : SlotIdx) (s : State) : Result := .next (wheelSource s)

/-- SRCVAL: dispatch on ACT.SLOT[j].SRC (R232). -/
def srcStep (j : SlotIdx) (s : State) : State :=
  match s.act.slot[j].src with
  | 0 => lfo1Source s
  | 1 => lfo2Source s
  | 2 => wheelSource s

/-- The value a destination register contributes: the selected source for a slot, the LFO's own value for a direct
mapping (R231). -/
def siteValue (site : DestSite) (s : State) : F32 :=
  match site with
  | .slot _ => s.seq.src
  | .direct k => s.seq.lv[k]

/-- The depth a destination register's value is multiplied by (R231). -/
def siteDepth (site : DestSite) (s : State) : F32 :=
  match site with
  | .slot j => s.act.slot[j].amount
  | .direct k => s.act.lfo[k].ddepth

/-- `OFF[d] = OFF[d] + (value * depth)`: one multiply, one add (R231, R234). Draws 2 NaNs. -/
def accumulate (site : DestSite) (d : Dest) (s : State) : State :=
  let x := fadd (s.nan 1) (offAt d s) (fmul (s.nan 0) (siteValue site s) (siteDepth site s))
  drew 2 (setSeq { s.seq with off := s.seq.off.set d.val x d.isLt } s)

/-- One modulation slot of ROUTE; destination 0 is inert (R231, R233). -/
def routeSlot (j : SlotIdx) (s : State) : State :=
  let d := s.act.slot[j].dest
  if d = 0 then s else accumulate (.slot j) d (srcStep j s)

/-- One direct mapping of ROUTE; destination 0 is inert (R231, R233). -/
def routeDirect (k : LfoIdx) (s : State) : State :=
  let d := s.act.lfo[k].ddest
  if d = 0 then s else accumulate (.direct k) d s

/-- All offsets to +0.0 (R231). -/
def clearOff (s : State) : State := setSeq { s.seq with off := Vector.replicate 55 fZero } s

/-- ROUTE (R231): slots ascending, then the direct mapping of LFO-1, then that of LFO-2. -/
def routeStep (s : State) : State :=
  let s1 := allSlots.foldl (fun t j => routeSlot j t) (clearOff s)
  routeDirect 1 (routeDirect 0 s1)

def execRoute (s : State) : Result := .next (routeStep s)

end Sys2Proof.Machine
end

