-- ==== Sys2Proof/Machine/Voice.lean ====
section
/-! DEFINITION. One rendered sample (45_voice.md R310 to R320). -/

namespace Sys2Proof.Machine

/-! ENVSRC (R314). -/

/-- Hand on the level of one envelope. -/
def setLevel (v : F32) (s : State) : State := setSeq { s.seq with env := v } s

def primaryLevel (s : State) : State := setLevel s.seq.ev[0] s
def secondaryLevel (s : State) : State := setLevel s.seq.ev[1] s

def execEnvsrcPrimary (_i : OpIdx) (s : State) : Result := .next (primaryLevel s)
def execEnvsrcSecondary (_i : OpIdx) (s : State) : Result := .next (secondaryLevel s)

/-- Envelope source: dispatch on ACT.OP[i].ENVSRC (R314). -/
def envsrcStep (i : OpIdx) (s : State) : State :=
  match s.act.op[i].envsrc with
  | 0 => primaryLevel s
  | 1 => secondaryLevel s

/-! PM (R311). -/

/-- One term of the phase-modulation sum: `pm + (OPOUT[j] * w)`. Draws 3 NaNs. -/
def pmTerm (i j : OpIdx) (s : State) : State :=
  let t := latchCell i j s
  let x := fadd (t.nan 1) t.seq.pm (fmul (t.nan 0) t.opout[j] t.seq.weight)
  drew 2 (setSeq { t.seq with pm := x } t)

/-- PM(i): the sum over j ascending from +0.0 (R311). -/
def pmStep (i : OpIdx) (s : State) : State :=
  allOps.foldl (fun t j => pmTerm i j t) (setSeq { s.seq with pm := fZero } s)

def execPm (i : OpIdx) (s : State) : Result := .next (pmStep i s)

/-! Steps 4 and 5 for one operator. -/

/-- `thz = NOTEHZ * ratio` (R312). Draws 1 NaN. -/
def targetStep (s : State) : State := drew 1 (setSeq { s.seq with thz := fmul (s.nan 0) s.noteHz s.seq.ratio } s)

/-- The modulated parameters of operator i (R312). -/
def modulateStep (i : OpIdx) (s : State) : State := targetStep (latchCtx1 i (latchRatio i (latchGain i s)))

/-- `par = par + ((out * PGAIN) * e)` (R315). Draws 3 NaNs. -/
def parallelStep (i : OpIdx) (s : State) : State :=
  let q := s.seq
  let x := fadd (s.nan 2) q.par (fmul (s.nan 1) (fmul (s.nan 0) q.out s.act.op[i].pgain) q.env)
  drew 3 (setSeq { q with par := x } s)

/-- `chain = (out * gain) * e` (R316). Draws 2 NaNs. -/
def serialStep (s : State) : State :=
  let q := s.seq
  drew 2 (setSeq { q with chain := fmul (s.nan 1) (fmul (s.nan 0) q.out q.gain) q.env } s)

/-- Store an operator's raw output in OPOUT (R313). -/
def storeOut (i : OpIdx) (s : State) : State := setOpout i s.seq.out s

/-- Operator i of the loop of R310: matrix, envelope, parameters, operator, OPOUT, both paths. -/
def voiceOperator (i : OpIdx) (s : State) : State :=
  let t := modulateStep i (envsrcStep i (pmStep i (setSeq { s.seq with i := i } s)))
  serialStep (parallelStep i (storeOut i (processStep i t)))

/-! VOICE.SAMPLE (R310). -/

/-- Steps 1 to 3: LFOs, router, envelopes. -/
def voiceControl (s : State) : State := envStep 1 (envStep 0 (routeStep (lfoStep 1 (lfoStep 0 s))))

/-- Chain and parallel sum start at +0.0 (R310, R313, R315). -/
def clearPaths (s : State) : State := setSeq { s.seq with chain := fZero, par := fZero } s

/-- Step 6: `y = (par + chain) * HEADROOM` (R317). Draws 2 NaNs. -/
def headroomStep (s : State) : State :=
  let q := s.seq
  drew 2 (setSeq { q with y := fmul (s.nan 1) (fadd (s.nan 0) q.par q.chain) Config.params.headroom } s)

/-- VOICE.SAMPLE: steps 1 to 6 (R310). -/
def voiceSampleStep (s : State) : State :=
  headroomStep (allOps.foldl (fun t i => voiceOperator i t) (clearPaths (voiceControl s)))

def execVoiceSample (s : State) : Result := .next (voiceSampleStep s)

/-! Steps 7 and 8, run by RENDER. -/

/-- Add y to channel c of the frame ARG0 + n (R87, R318). Draws 1 NaN. -/
def outAddChannel (c : Nat) (s : State) : State :=
  let a := outAddr c (startOperand s + s.seq.n.toNat)
  drew 1 (outbufWrite a (fadd (s.nan 0) (outbufRead a s) s.seq.y) s)

/-- OUT.ADD: every channel, ascending (R318). -/
def outAddStep (s : State) : State := (List.range Config.params.nch).foldl (fun t c => outAddChannel c t) s

def execOutAdd (s : State) : Result := .next (outAddStep s)

/-- COMPLETE (R320). -/
def completeStep (s : State) : State := if bothEnvIdle s then { s with vstate := .idle, done := true } else s

def execComplete (s : State) : Result := .next (completeStep s)

end Sys2Proof.Machine
end

