-- ==== Sys2Proof/Machine/Commands.lean ====
section
/-! DEFINITION. The nine host commands (46_commands.md R340 to R349). -/

namespace Sys2Proof.Machine

/-- NOP (R340). -/
def execNop (s : State) : Result := .next s

/-! PREPARE (R341). -/

/-- The sample rate is refused: NaN, below FS_MIN or above FS_MAX, compared in binary64 (R341). -/
def rateBad (rate : F64) : Bool :=
  isNaN64 rate || flt64 rate Config.params.fsMin || flt64 Config.params.fsMax rate

/-- The block size is refused (R341). -/
def blockSizeBad (bs : Nat) : Bool := decide (bs < 1 ∨ Config.params.blockMax < bs)

/-- OPOUT to +0.0 (R341, R343). -/
def clearOpout (s : State) : State := { s with opout := Vector.replicate 6 fZero }

/-- Kill both envelopes (R341, R344). -/
def killBoth (s : State) : State := allEnvs.foldl (fun t e => envKillStep e t) s

/-- The voice part of PREPARE: operators, OPOUT, envelopes, LFO phases, Idle, DONE and PREPARED (R341). -/
def prepareVoice (s : State) : State :=
  let s1 := allOps.foldl (fun t i => resetStep i (prepareStep i t)) s
  let s2 := killBoth (clearOpout s1)
  { s2 with lph := Vector.replicate 2 fZero, vstate := .idle, done := false, prepared := true }

/-- PREPARE (R341). The rate is no NaN where it is converted, so the conversion draws none. -/
def execPrepare (s : State) : Result :=
  let rate := rateOperand s
  if rateBad rate then .next (takeRefusal .argErr causeRate 0 s)
  else if blockSizeBad (blockSizeOperand s) then .next (takeRefusal .argErr causeBlockSize (info24 s.arg2) s)
  else .next (prepareVoice { s with fs := f64ToF32 (s.nan 0) rate, blockSize := BitVec.ofNat Config.params.blockBits (blockSizeOperand s) })

/-- CANPLAY (R347). -/
def execCanplay (tag : BitVec 24) (s : State) : Result :=
  .next { s with result := resultWord (tag == Config.params.soundTag) }

/-! SETPARAMS (R342). -/

/-- The cause for which a STAGE word of a kind is refused, if any (R342). -/
def fieldFault (kind : FieldKind) (v : Word) : Option (BitVec 8) :=
  match kind with
  | .float => if isFinite v then none else some causeFloat
  | .wave => if 3 < v.toNat then some causeWave else none
  | .dest => if 54 < v.toNat then some causeDest else none
  | .envsrc => if 1 < v.toNat then some causeEnvsrc else none
  | .src => if 2 < v.toNat then some causeSrc else none
  | .mode => none
  | .flag => none

/-- The refusal the STAGE word at a bus address asks for: cause and address (R342). -/
def stageFault (s : State) (a : Nat) : Option (BitVec 8 × Nat) :=
  match stageKind a with
  | none => none
  | some kind => (fieldFault kind (stageRead a s)).map fun cause => (cause, a)

/-- The word addresses of the STAGE bank, ascending (R39). -/
def stageAddrs : List Nat := (List.range 164).map (stageBase + ·)

/-- The first offending STAGE word in ascending address order (R342). -/
def firstStageFault (s : State) : Option (BitVec 8 × Nat) := stageAddrs.findSome? (stageFault s)

/-- The envelope fields at a base address (R39). -/
def stageEnv (s : State) (b : Nat) : EnvParams where
  attack := stageRead b s
  decay := stageRead (b + 1) s
  sustain := stageRead (b + 2) s
  release := stageRead (b + 3) s
  retrig := (stageRead (b + 4) s).getLsbD 0

/-- The LFO fields at a base address (R39). Selector words are legal when this is used (log 16). -/
def stageLfo (s : State) (b : Nat) : LfoParams where
  freq := stageRead b s
  amount := stageRead (b + 1) s
  wave := Fin.ofNat 4 (stageRead (b + 2) s).toNat
  sync := (stageRead (b + 3) s).getLsbD 0
  ddest := Fin.ofNat 55 (stageRead (b + 4) s).toNat
  ddepth := stageRead (b + 5) s

/-- The operator fields at a base address (R39). -/
def stageOp (s : State) (b : Nat) : OpParams where
  mode := stageRead b s
  ratio := stageRead (b + 1) s
  sgain := stageRead (b + 2) s
  pgain := stageRead (b + 3) s
  ctx1 := stageRead (b + 4) s
  ctx2 := stageRead (b + 5) s
  keytrk := stageRead (b + 6) s
  envsrc := Fin.ofNat 2 (stageRead (b + 7) s).toNat

/-- The slot fields at a base address (R39). -/
def stageSlot (s : State) (b : Nat) : SlotParams where
  src := Fin.ofNat 3 (stageRead b s).toNat
  dest := Fin.ofNat 55 (stageRead (b + 1) s).toNat
  amount := stageRead (b + 2) s

/-- A matrix row at a base address (R39). -/
def stageRow (s : State) (b : Nat) : Vector F32 6 :=
  #v[stageRead b s, stageRead (b + 1) s, stageRead (b + 2) s, stageRead (b + 3) s, stageRead (b + 4) s,
    stageRead (b + 5) s]

/-- The snapshot the STAGE bank holds (R39, R40). -/
def stageSnapshot (s : State) : Snapshot where
  env := #v[stageEnv s 0x100, stageEnv s 0x108]
  lfo := #v[stageLfo s 0x110, stageLfo s 0x118]
  op := #v[stageOp s 0x130, stageOp s 0x138, stageOp s 0x140, stageOp s 0x148, stageOp s 0x150, stageOp s 0x158]
  slot := #v[stageSlot s 0x160, stageSlot s 0x164, stageSlot s 0x168, stageSlot s 0x16C,
    stageSlot s 0x170, stageSlot s 0x174, stageSlot s 0x178, stageSlot s 0x17C]
  matrix := #v[stageRow s 0x180, stageRow s 0x186, stageRow s 0x18C, stageRow s 0x192, stageRow s 0x198,
    stageRow s 0x19E]

/-- The word address of STAGE.MODWHEEL (R39). -/
def modwheelAddr : Nat := 0x120

/-- Publish the snapshot: ACT and MW in one copy (R342, R95). -/
def publish (s : State) : State := { s with act := stageSnapshot s, mw := stageRead modwheelAddr s }

/-- SETPARAMS (R342). -/
def execSetparams (s : State) : Result :=
  match firstStageFault s with
  | some (cause, a) => .next (takeRefusal .cfgErr cause (BitVec.ofNat 24 a) s)
  | none => .next (publish s)

/-! NOTE_HZ (R176) and STARTNOTE (R343). -/

/-- `NOTE_HZ[n]` (R176). -/
def noteHzOf (note : BitVec 7) : F32 := Config.params.noteHz.getD note.toNat 0

/-- `NOTEHZ = NOTE_HZ[NOTE]` (R343). -/
def noteHzStep (note : BitVec 7) (s : State) : State := { s with noteHz := noteHzOf note }

def execNoteHz (note : BitVec 7) (s : State) : Result := .next (noteHzStep note s)

/-- The effect of an accepted STARTNOTE, in the order of R343. -/
def startVoice (note : BitVec 7) (s : State) : State :=
  let s1 := allEnvs.foldl (fun t e => envLoadStep e t) (noteHzStep note s)
  let s2 := allLfos.foldl (fun t k => lfoSyncStep k t) s1
  let s3 := clearOpout (resetAllOps s2)
  let s4 := allEnvs.foldl (fun t e => envNoteonStep e t) s3
  { s4 with vstate := .active, done := false }

/-- STARTNOTE (R343); velocity and offset are not read. -/
def execStartnote (note : BitVec 7) (s : State) : Result :=
  if s.prepared then .next (startVoice note s) else .next (takeRefusal .seqErr causeNotPrepared 0x03 s)

/-! STOPNOTE (R344). -/

/-- Note-off with tail: both envelopes to release, Releasing (R344). -/
def releaseVoice (s : State) : State :=
  { allEnvs.foldl (fun t e => envNoteoffStep e t) s with vstate := .releasing }

/-- Hard cut: both envelopes killed, Idle (R344). -/
def cutVoice (s : State) : State := { killBoth s with vstate := .idle }

/-- STOPNOTE (R344): a tail-off stop of an Idle voice does nothing. -/
def execStopnote (tail : Bool) (s : State) : Result :=
  if tail then (if voiceActive s then .next (releaseVoice s) else .next s) else .next (cutVoice s)

/-! RENDER (R345). -/

/-- One frame of RENDER: sample n, written and tested for completion. -/
def renderFrame (n : Nat) (s : State) : State :=
  completeStep (outAddStep (voiceSampleStep (setSeq { s.seq with n := BitVec.ofNat Config.params.blockBits n } s)))

/-- Frames n, n+1, … for the given count, ending early when the voice is Idle (R345). -/
def renderFrames : (count n : Nat) → State → State
  | 0, _, s => s
  | count + 1, n, s => if voiceActive s then renderFrames count (n + 1) (renderFrame n s) else s

/-- RENDER (R345). The transient values do not outlive the command (R20, R30). -/
def execRender (s : State) : Result :=
  if !s.prepared then .next (takeRefusal .seqErr causeNotPrepared 0x06 s)
  else if s.blockSize.toNat < startOperand s + countOperand s then
    .next (takeRefusal .argErr causeRange (info24 s.arg0) s)
  else .next (setSeq Seq.idle (renderFrames (countOperand s) 0 s))

/-- ISACTIVE (R348). -/
def execIsactive (s : State) : Result := .next { s with result := resultWord (voiceActive s) }

/-! CTRL (R349). -/

/-- The controller number of the modulation wheel (R349). -/
def wheelController : BitVec 7 := 1

/-- CTRL (R349): controller 1 writes MW, the others do nothing. -/
def execCtrl (cc : BitVec 7) (s : State) : Result :=
  if cc = wheelController then
    (if isFinite (controlOperand s) then .next { s with mw := controlOperand s }
     else .next (takeRefusal .argErr causeController 1 s))
  else .next s

end Sys2Proof.Machine
end

