-- ==== Sys2Proof/Machine/Bus.lean ====
section
/-! DEFINITION. Hardware reset (R410), the bus accesses (R82, R83) and the refusal as a micro-operation (R384). -/

namespace Sys2Proof.Machine

/-- HWRESET (R410): every register at its reset value. The RAM contents become unspecified anew (U2, U3); the host's
requests, its last read and the counter of draws are not the block's. Log 17. -/
def hwresetStep (s : State) : State :=
  { State.reset with requests := s.requests, rdata := s.rdata, draws := s.draws, epoch := s.epoch + 1 }

def execHwreset (s : State) : Result := .next (hwresetStep s)

/-- REFUSE(FLAG, cause, info) (R384). -/
def execRefuse (flag : ErrFlag) (cause : BitVec 8) (info : BitVec 24) (s : State) : Result :=
  .next (takeRefusal flag cause info s)

/-- What an undecodable word does: an illegal command word is refused with CMD_ERR (R112, R389); a reserved selector
word has no meaning (log 3). -/
def runReject (r : Reject) (s : State) : Result :=
  match r with
  | .unknownOpcode info => .next (takeRefusal .cmdErr causeOpcode info s)
  | .reservedBits info => .next (takeRefusal .cmdErr causeReserved info s)
  | .reservedSelector site w => .refused (.reservedSelector site w)

/-- Run a decoded command. -/
def runCommand (c : Command) (s : State) : Result :=
  match c with
  | .nop => execNop s
  | .prepare => execPrepare s
  | .canplay tag => execCanplay tag s
  | .startnote note => execStartnote note s
  | .stopnote tail => execStopnote tail s
  | .setparams => execSetparams s
  | .render => execRender s
  | .isactive => execIsactive s
  | .ctrl cc => execCtrl cc s

/-- A bus write to CMD (R21, R112). -/
def writeCmd (v : Word) (s : State) : Result :=
  match decodeCommand v with
  | .ok c => runCommand c s
  | .error r => runReject r s

/-- BusRead(a): the word is left for the host in rdata (R82, log 10). -/
def execBusRead (a : Nat) (s : State) : Result :=
  if busAddressOk a then .next { s with rdata := busValue a s } else .fault (.noSuchAddress a)

/-- BusWrite(a, v) (R83). -/
def execBusWrite (a : Nat) (v : Word) (s : State) : Result :=
  if !busAddressOk a then .fault (.noSuchAddress a)
  else if a = cmdAddr then writeCmd v s
  else .next (busStore a v s)

end Sys2Proof.Machine
end

