-- ==== Sys2Proof/Machine/Dest.lean ====
section
/-! DEFINITION. The 55 destination words (R124) as micro-operations: the register's contribution is added to the
destination's offset (R231, R234), and the parameter the offset belongs to is formed from it (R311, R312). Log 14. -/

namespace Sys2Proof.Machine

/-- A contribution to serial gain i (R312). -/
def toGain (i : OpIdx) (site : DestSite) (s : State) : Result := .next (latchGain i (accumulate site (gainDest i) s))

/-- A contribution to ratio i (R312). -/
def toRatio (i : OpIdx) (site : DestSite) (s : State) : Result := .next (latchRatio i (accumulate site (ratioDest i) s))

/-- A contribution to context-1 of operator i (R312). -/
def toCtx1 (i : OpIdx) (site : DestSite) (s : State) : Result := .next (latchCtx1 i (accumulate site (ctx1Dest i) s))

/-- A contribution to matrix cell [i][j] (R311). -/
def toCell (i j : OpIdx) (site : DestSite) (s : State) : Result :=
  .next (latchCell i j (accumulate site (cellDest i j) s))

/-- Destination 0 is an inert sink (R233). -/
def execDestNone (_site : DestSite) (s : State) : Result := .next s

def execDestGain0 (site : DestSite) (s : State) : Result := toGain 0 site s
def execDestGain1 (site : DestSite) (s : State) : Result := toGain 1 site s
def execDestGain2 (site : DestSite) (s : State) : Result := toGain 2 site s
def execDestGain3 (site : DestSite) (s : State) : Result := toGain 3 site s
def execDestGain4 (site : DestSite) (s : State) : Result := toGain 4 site s
def execDestGain5 (site : DestSite) (s : State) : Result := toGain 5 site s

def execDestRatio0 (site : DestSite) (s : State) : Result := toRatio 0 site s
def execDestRatio1 (site : DestSite) (s : State) : Result := toRatio 1 site s
def execDestRatio2 (site : DestSite) (s : State) : Result := toRatio 2 site s
def execDestRatio3 (site : DestSite) (s : State) : Result := toRatio 3 site s
def execDestRatio4 (site : DestSite) (s : State) : Result := toRatio 4 site s
def execDestRatio5 (site : DestSite) (s : State) : Result := toRatio 5 site s

def execDestCtx1_0 (site : DestSite) (s : State) : Result := toCtx1 0 site s
def execDestCtx1_1 (site : DestSite) (s : State) : Result := toCtx1 1 site s
def execDestCtx1_2 (site : DestSite) (s : State) : Result := toCtx1 2 site s
def execDestCtx1_3 (site : DestSite) (s : State) : Result := toCtx1 3 site s
def execDestCtx1_4 (site : DestSite) (s : State) : Result := toCtx1 4 site s
def execDestCtx1_5 (site : DestSite) (s : State) : Result := toCtx1 5 site s

def execDestCell00 (site : DestSite) (s : State) : Result := toCell 0 0 site s
def execDestCell01 (site : DestSite) (s : State) : Result := toCell 0 1 site s
def execDestCell02 (site : DestSite) (s : State) : Result := toCell 0 2 site s
def execDestCell03 (site : DestSite) (s : State) : Result := toCell 0 3 site s
def execDestCell04 (site : DestSite) (s : State) : Result := toCell 0 4 site s
def execDestCell05 (site : DestSite) (s : State) : Result := toCell 0 5 site s

def execDestCell10 (site : DestSite) (s : State) : Result := toCell 1 0 site s
def execDestCell11 (site : DestSite) (s : State) : Result := toCell 1 1 site s
def execDestCell12 (site : DestSite) (s : State) : Result := toCell 1 2 site s
def execDestCell13 (site : DestSite) (s : State) : Result := toCell 1 3 site s
def execDestCell14 (site : DestSite) (s : State) : Result := toCell 1 4 site s
def execDestCell15 (site : DestSite) (s : State) : Result := toCell 1 5 site s

def execDestCell20 (site : DestSite) (s : State) : Result := toCell 2 0 site s
def execDestCell21 (site : DestSite) (s : State) : Result := toCell 2 1 site s
def execDestCell22 (site : DestSite) (s : State) : Result := toCell 2 2 site s
def execDestCell23 (site : DestSite) (s : State) : Result := toCell 2 3 site s
def execDestCell24 (site : DestSite) (s : State) : Result := toCell 2 4 site s
def execDestCell25 (site : DestSite) (s : State) : Result := toCell 2 5 site s

def execDestCell30 (site : DestSite) (s : State) : Result := toCell 3 0 site s
def execDestCell31 (site : DestSite) (s : State) : Result := toCell 3 1 site s
def execDestCell32 (site : DestSite) (s : State) : Result := toCell 3 2 site s
def execDestCell33 (site : DestSite) (s : State) : Result := toCell 3 3 site s
def execDestCell34 (site : DestSite) (s : State) : Result := toCell 3 4 site s
def execDestCell35 (site : DestSite) (s : State) : Result := toCell 3 5 site s

def execDestCell40 (site : DestSite) (s : State) : Result := toCell 4 0 site s
def execDestCell41 (site : DestSite) (s : State) : Result := toCell 4 1 site s
def execDestCell42 (site : DestSite) (s : State) : Result := toCell 4 2 site s
def execDestCell43 (site : DestSite) (s : State) : Result := toCell 4 3 site s
def execDestCell44 (site : DestSite) (s : State) : Result := toCell 4 4 site s
def execDestCell45 (site : DestSite) (s : State) : Result := toCell 4 5 site s

def execDestCell50 (site : DestSite) (s : State) : Result := toCell 5 0 site s
def execDestCell51 (site : DestSite) (s : State) : Result := toCell 5 1 site s
def execDestCell52 (site : DestSite) (s : State) : Result := toCell 5 2 site s
def execDestCell53 (site : DestSite) (s : State) : Result := toCell 5 3 site s
def execDestCell54 (site : DestSite) (s : State) : Result := toCell 5 4 site s
def execDestCell55 (site : DestSite) (s : State) : Result := toCell 5 5 site s

end Sys2Proof.Machine
end

