-- ==== Sys2Proof/Machine/Dispatch.lean ====
section
/-! DEFINITION. exec: one arm for each constructor of Instr, each one call of its meaning. -/

namespace Sys2Proof.Machine

def exec (i : Instr) (s : State) : Host.Outcome State Fault Refusal :=
  match i with
  | .nop => Sys2Proof.Machine.execNop s
  | .prepare => Sys2Proof.Machine.execPrepare s
  | .canplay tag => Sys2Proof.Machine.execCanplay tag s
  | .startnote note => Sys2Proof.Machine.execStartnote note s
  | .stopnote tail => Sys2Proof.Machine.execStopnote tail s
  | .setparams => Sys2Proof.Machine.execSetparams s
  | .render => Sys2Proof.Machine.execRender s
  | .isactive => Sys2Proof.Machine.execIsactive s
  | .ctrl cc => Sys2Proof.Machine.execCtrl cc s
  | .opOsc oi => Sys2Proof.Machine.execOpOsc oi s
  | .opLpf oi => Sys2Proof.Machine.execOpLpf oi s
  | .opComb oi => Sys2Proof.Machine.execOpComb oi s
  | .opPass oi value => Sys2Proof.Machine.execOpPass oi value s
  | .waveSine k => Sys2Proof.Machine.execWaveSine k s
  | .waveTriangle k => Sys2Proof.Machine.execWaveTriangle k s
  | .waveSaw k => Sys2Proof.Machine.execWaveSaw k s
  | .waveSquare k => Sys2Proof.Machine.execWaveSquare k s
  | .srcLfo1 j => Sys2Proof.Machine.execSrcLfo1 j s
  | .srcLfo2 j => Sys2Proof.Machine.execSrcLfo2 j s
  | .srcModwheel j => Sys2Proof.Machine.execSrcModwheel j s
  | .envsrcPrimary oi => Sys2Proof.Machine.execEnvsrcPrimary oi s
  | .envsrcSecondary oi => Sys2Proof.Machine.execEnvsrcSecondary oi s
  | .destNone site => Sys2Proof.Machine.execDestNone site s
  | .destGain0 site => Sys2Proof.Machine.execDestGain0 site s
  | .destGain1 site => Sys2Proof.Machine.execDestGain1 site s
  | .destGain2 site => Sys2Proof.Machine.execDestGain2 site s
  | .destGain3 site => Sys2Proof.Machine.execDestGain3 site s
  | .destGain4 site => Sys2Proof.Machine.execDestGain4 site s
  | .destGain5 site => Sys2Proof.Machine.execDestGain5 site s
  | .destRatio0 site => Sys2Proof.Machine.execDestRatio0 site s
  | .destRatio1 site => Sys2Proof.Machine.execDestRatio1 site s
  | .destRatio2 site => Sys2Proof.Machine.execDestRatio2 site s
  | .destRatio3 site => Sys2Proof.Machine.execDestRatio3 site s
  | .destRatio4 site => Sys2Proof.Machine.execDestRatio4 site s
  | .destRatio5 site => Sys2Proof.Machine.execDestRatio5 site s
  | .destCtx1_0 site => Sys2Proof.Machine.execDestCtx1_0 site s
  | .destCtx1_1 site => Sys2Proof.Machine.execDestCtx1_1 site s
  | .destCtx1_2 site => Sys2Proof.Machine.execDestCtx1_2 site s
  | .destCtx1_3 site => Sys2Proof.Machine.execDestCtx1_3 site s
  | .destCtx1_4 site => Sys2Proof.Machine.execDestCtx1_4 site s
  | .destCtx1_5 site => Sys2Proof.Machine.execDestCtx1_5 site s
  | .destCell00 site => Sys2Proof.Machine.execDestCell00 site s
  | .destCell01 site => Sys2Proof.Machine.execDestCell01 site s
  | .destCell02 site => Sys2Proof.Machine.execDestCell02 site s
  | .destCell03 site => Sys2Proof.Machine.execDestCell03 site s
  | .destCell04 site => Sys2Proof.Machine.execDestCell04 site s
  | .destCell05 site => Sys2Proof.Machine.execDestCell05 site s
  | .destCell10 site => Sys2Proof.Machine.execDestCell10 site s
  | .destCell11 site => Sys2Proof.Machine.execDestCell11 site s
  | .destCell12 site => Sys2Proof.Machine.execDestCell12 site s
  | .destCell13 site => Sys2Proof.Machine.execDestCell13 site s
  | .destCell14 site => Sys2Proof.Machine.execDestCell14 site s
  | .destCell15 site => Sys2Proof.Machine.execDestCell15 site s
  | .destCell20 site => Sys2Proof.Machine.execDestCell20 site s
  | .destCell21 site => Sys2Proof.Machine.execDestCell21 site s
  | .destCell22 site => Sys2Proof.Machine.execDestCell22 site s
  | .destCell23 site => Sys2Proof.Machine.execDestCell23 site s
  | .destCell24 site => Sys2Proof.Machine.execDestCell24 site s
  | .destCell25 site => Sys2Proof.Machine.execDestCell25 site s
  | .destCell30 site => Sys2Proof.Machine.execDestCell30 site s
  | .destCell31 site => Sys2Proof.Machine.execDestCell31 site s
  | .destCell32 site => Sys2Proof.Machine.execDestCell32 site s
  | .destCell33 site => Sys2Proof.Machine.execDestCell33 site s
  | .destCell34 site => Sys2Proof.Machine.execDestCell34 site s
  | .destCell35 site => Sys2Proof.Machine.execDestCell35 site s
  | .destCell40 site => Sys2Proof.Machine.execDestCell40 site s
  | .destCell41 site => Sys2Proof.Machine.execDestCell41 site s
  | .destCell42 site => Sys2Proof.Machine.execDestCell42 site s
  | .destCell43 site => Sys2Proof.Machine.execDestCell43 site s
  | .destCell44 site => Sys2Proof.Machine.execDestCell44 site s
  | .destCell45 site => Sys2Proof.Machine.execDestCell45 site s
  | .destCell50 site => Sys2Proof.Machine.execDestCell50 site s
  | .destCell51 site => Sys2Proof.Machine.execDestCell51 site s
  | .destCell52 site => Sys2Proof.Machine.execDestCell52 site s
  | .destCell53 site => Sys2Proof.Machine.execDestCell53 site s
  | .destCell54 site => Sys2Proof.Machine.execDestCell54 site s
  | .destCell55 site => Sys2Proof.Machine.execDestCell55 site s
  | .hwreset => Sys2Proof.Machine.execHwreset s
  | .busRead a => Sys2Proof.Machine.execBusRead a s
  | .busWrite a v => Sys2Proof.Machine.execBusWrite a v s
  | .dReadDWrite oi k w => Sys2Proof.Machine.execDReadDWrite oi k w s
  | .opPrepare oi => Sys2Proof.Machine.execOpPrepare oi s
  | .opReset oi => Sys2Proof.Machine.execOpReset oi s
  | .opProcess oi => Sys2Proof.Machine.execOpProcess oi s
  | .envLoad e => Sys2Proof.Machine.execEnvLoad e s
  | .envNoteon e => Sys2Proof.Machine.execEnvNoteon e s
  | .envNoteoff e => Sys2Proof.Machine.execEnvNoteoff e s
  | .envKill e => Sys2Proof.Machine.execEnvKill e s
  | .envStepIdle e => Sys2Proof.Machine.execEnvStepIdle e s
  | .envStepAttack e => Sys2Proof.Machine.execEnvStepAttack e s
  | .envStepDecay e => Sys2Proof.Machine.execEnvStepDecay e s
  | .envStepSustain e => Sys2Proof.Machine.execEnvStepSustain e s
  | .envStepRelease e => Sys2Proof.Machine.execEnvStepRelease e s
  | .lfoSync k => Sys2Proof.Machine.execLfoSync k s
  | .lfoStep k => Sys2Proof.Machine.execLfoStep k s
  | .route => Sys2Proof.Machine.execRoute s
  | .pm oi => Sys2Proof.Machine.execPm oi s
  | .voiceSample => Sys2Proof.Machine.execVoiceSample s
  | .outAdd => Sys2Proof.Machine.execOutAdd s
  | .complete => Sys2Proof.Machine.execComplete s
  | .refuse flag cause info => Sys2Proof.Machine.execRefuse flag cause info s
  | .noteHz note => Sys2Proof.Machine.execNoteHz note s

end Sys2Proof.Machine
end

