-- ==== Sys2Proof/Machine/Step.lean ====
section
/-! DEFINITION. One step: take the next request, decode it, run it. The block has no program counter (R30); the
host's requests are its program (R130, log 1). -/

namespace Sys2Proof.Machine

/-- The state with its first request taken. -/
def State.popRequest (s : State) : State := { s with requests := s.requests.tail }

/-- Serve one request: the decoded instruction, or what an undecodable word does (R112). -/
def serve (r : Request) (s : State) : Host.Outcome State Fault Refusal :=
  match decode r with
  | .ok i => exec i s
  | .error e => runReject e s

/-- One step. With no request the block is idle and nothing changes (R93). -/
def step (s : State) : Host.Outcome State Fault Refusal :=
  match s.requests with
  | [] => .next s
  | r :: _ => serve r s.popRequest

/-- The state whose next step runs the instruction of an opcode-table number: its request is put first. Log 3. -/
def State.withFetchWord (s : State) (nbits w : Nat) : State :=
  { s with requests := tableRequest nbits w :: s.requests }

end Sys2Proof.Machine
end

