-- ==== Sys2Proof/Safety.lean ====
section
/-! DEFINITION. What counts as a good state and a good run, in the terms the statements use: the ranges the spec
gives to phases, envelopes and parameters, and what an operation may touch. -/

namespace Sys2Proof.Machine

/-! Ranges of single values. -/

/-- A phase in [0, 2π) (R34, R38, R166). -/
abbrev inPhase (x : F32) : Prop := fge x fZero = true ∧ flt x fTwoPi = true

/-- A level in [0, 1], not a NaN (R262). -/
abbrev inUnit (x : F32) : Prop := fle fZero x = true ∧ fle x fOne = true

/-- Not negative and not a NaN; an infinity may occur. -/
abbrev nonNegative (x : F32) : Prop := fle fZero x = true

/-! Invariants of the state. -/

/-- Every phase is in [0, 2π) (R34, R38). -/
abbrev phasesOk (s : State) : Prop := (∀ i : OpIdx, inPhase s.op[i].ph) ∧ ∀ k : LfoIdx, inPhase s.lph[k]

/-- One envelope is as R262 says; its increments are not negative. -/
abbrev envelopeOk (x : Envelope) : Prop :=
  inUnit x.level ∧ (x.stage = .idle → x.level = fZero) ∧ inUnit x.sus ∧ nonNegative x.aInc ∧ nonNegative x.dDec
    ∧ nonNegative x.rDec

/-- Both envelopes are as R262 says. -/
abbrev envelopesOk (s : State) : Prop := ∀ e : EnvIdx, envelopeOk s.env[e]

/-- The voice is Idle exactly when both envelopes are idle (R300, R301). -/
abbrev voiceOk (s : State) : Prop := s.vstate = .idle ↔ bothEnvIdle s = true

/-- After a successful PREPARE the sample rate and the block size are in range (R28). -/
abbrev preparedOk (s : State) : Prop :=
  s.prepared = true → fle 0x472C4400#32 s.fs = true ∧ fle s.fs 0x483B8000#32 = true ∧ 1 ≤ s.blockSize.toNat
    ∧ s.blockSize.toNat ≤ 4096

/-- Every float of one envelope parameter set is finite (R126). -/
abbrev envParamsFinite (p : EnvParams) : Prop :=
  isFinite p.attack = true ∧ isFinite p.decay = true ∧ isFinite p.sustain = true ∧ isFinite p.release = true

/-- Every float of one LFO parameter set is finite (R126). -/
abbrev lfoParamsFinite (p : LfoParams) : Prop :=
  isFinite p.freq = true ∧ isFinite p.amount = true ∧ isFinite p.ddepth = true

/-- Every float of one operator's parameters is finite (R126). -/
abbrev opParamsFinite (p : OpParams) : Prop :=
  isFinite p.ratio = true ∧ isFinite p.sgain = true ∧ isFinite p.pgain = true ∧ isFinite p.ctx1 = true
    ∧ isFinite p.ctx2 = true ∧ isFinite p.keytrk = true

/-- Every float of ACT, and MW, is finite (R126, R342, R349). -/
abbrev parametersFinite (s : State) : Prop :=
  (∀ e : EnvIdx, envParamsFinite s.act.env[e]) ∧ (∀ k : LfoIdx, lfoParamsFinite s.act.lfo[k])
    ∧ (∀ i : OpIdx, opParamsFinite s.act.op[i]) ∧ (∀ j : SlotIdx, isFinite s.act.slot[j].amount = true)
    ∧ (∀ i j : OpIdx, isFinite s.act.matrix[i][j] = true) ∧ isFinite s.mw = true

/-! What an operation may touch. -/

/-- Only the transient values and the draw counter change. -/
abbrev seqFrame (s t : State) : Prop := t = { s with seq := t.seq, draws := t.draws }

/-- Only what R323 lets change in a sample, and the transient values, change. -/
abbrev voiceFrame (s t : State) : Prop :=
  t = { s with seq := t.seq, draws := t.draws, op := t.op, env := t.env, lph := t.lph, opout := t.opout }

/-- Only what R345 lets RENDER write, and the transient values, change. -/
abbrev renderWrites (s t : State) : Prop :=
  t = { s with seq := t.seq, draws := t.draws, op := t.op, env := t.env, lph := t.lph, opout := t.opout,
               outbuf := t.outbuf, vstate := t.vstate, done := t.done }

/-- Only the error flags and ERRINFO change (R384). -/
abbrev refusalFrame (s t : State) : Prop :=
  t = { s with seqErr := t.seqErr, cfgErr := t.cfgErr, argErr := t.argErr, cmdErr := t.cmdErr, errinfo := t.errinfo }

/-- Every word of OUTBUF and of every delay RAM reads as before. -/
abbrev memoryKept (s t : State) : Prop :=
  (∀ a, outbufRead a t = outbufRead a s) ∧ ∀ (i : OpIdx) (k : DelayIdx), delayRead i k t = delayRead i k s

end Sys2Proof.Machine
end

