-- ==== Sys2Proof/Certificates/Slice0/Obligations.lean ====
section
/-! DEFINITION. The statements for the provers. The namespace Sys2Proof.Claims holds what they are written with: the
formulas of the spec's rules, written again from the rules and not taken from the machine. A result that can be a NaN is
stated for some supply of NaNs, since R156 leaves sign and payload open. -/

namespace Sys2Proof.Claims

open Sys2Proof.Machine

/-! NaNs and addresses. -/

/-- A supply of quiet NaNs, as R156 lets a primitive return them. -/
def NaNs (nan : Nat → F32) : Prop := ∀ k, isNaN (nan k) = true ∧ (nan k).getLsbD 22 = true

/-- The effect of `refuse(FLAG, cause, info)` (R384): the flag, and ERRINFO if it was 0; no other field. -/
def Refused (flag : ErrFlag) (cause : BitVec 8) (info : BitVec 24) (s t : State) : Prop :=
  t = { s with
        seqErr := s.seqErr || decide (flag = .seqErr)
        cfgErr := s.cfgErr || decide (flag = .cfgErr)
        argErr := s.argErr || decide (flag = .argErr)
        cmdErr := s.cmdErr || decide (flag = .cmdErr)
        errinfo := if s.errinfo = 0 then info ++ cause else s.errinfo }

/-- The match and mask columns of R116. -/
def opcodeRows : List (Word × Word) :=
  [(0x00000000#32, 0xFFFFFFFF#32), (0x01000000#32, 0xFFFFFFFF#32), (0x02000000#32, 0xFF000000#32),
   (0x03000000#32, 0xFFFFFF80#32), (0x04000000#32, 0xFFFFFFFE#32), (0x05000000#32, 0xFFFFFFFF#32),
   (0x06000000#32, 0xFFFFFFFF#32), (0x07000000#32, 0xFFFFFFFF#32), (0x08000000#32, 0xFFFFFF80#32)]

/-- A STAGE word that holds a field, not a reserved word (the layout table of R39). -/
def stageField (a : Nat) : Prop :=
  (∃ e : Fin 2, ∃ o : Fin 5, a = 0x100 + 8 * e.val + o.val) ∨
  (∃ k : Fin 2, ∃ o : Fin 6, a = 0x110 + 8 * k.val + o.val) ∨
  a = 0x120 ∨
  (∃ i : Fin 6, ∃ o : Fin 8, a = 0x130 + 8 * i.val + o.val) ∨
  (∃ j : Fin 8, ∃ o : Fin 3, a = 0x160 + 4 * j.val + o.val) ∨
  (∃ i j : Fin 6, a = 0x180 + 6 * i.val + j.val)

/-- A word address of OUTBUF (R81). -/
def outbufAddr (a : Nat) : Prop := 0x1000 ≤ a ∧ a < 0x3000

/-- A bus address that stores what is written to it (the access column of R81). -/
def writable (a : Nat) : Prop := a = 0x001 ∨ a = 0x002 ∨ a = 0x003 ∨ stageField a ∨ outbufAddr a

/-- The STAGE word at a bus address. -/
def stageWord (s : State) (a : Nat) : Word := s.stage[a - 0x100]?.getD 0

/-- A STAGE word of float kind (R342). -/
def floatField (a : Nat) : Prop :=
  (∃ e : Fin 2, ∃ o : Fin 4, a = 0x100 + 8 * e.val + o.val) ∨
  (∃ k : Fin 2, a = 0x110 + 8 * k.val ∨ a = 0x111 + 8 * k.val ∨ a = 0x115 + 8 * k.val) ∨
  a = 0x120 ∨
  (∃ i : Fin 6, ∃ o : Fin 6, a = 0x131 + 8 * i.val + o.val) ∨
  (∃ j : Fin 8, a = 0x162 + 4 * j.val) ∨
  (∃ i j : Fin 6, a = 0x180 + 6 * i.val + j.val)

/-- The STAGE word at a is one SETPARAMS refuses, with the given cause (R342, R385). -/
def Offends (s : State) (a cause : Nat) : Prop :=
  (cause = 6 ∧ floatField a ∧ isFinite (stageWord s a) = false) ∨
  (cause = 4 ∧ (∃ k : Fin 2, a = 0x112 + 8 * k.val) ∧ 3 < (stageWord s a).toNat) ∨
  (cause = 2 ∧ ((∃ k : Fin 2, a = 0x114 + 8 * k.val) ∨ ∃ j : Fin 8, a = 0x161 + 4 * j.val)
    ∧ 54 < (stageWord s a).toNat) ∨
  (cause = 5 ∧ (∃ i : Fin 6, a = 0x137 + 8 * i.val) ∧ 1 < (stageWord s a).toNat) ∨
  (cause = 3 ∧ (∃ j : Fin 8, a = 0x160 + 4 * j.val) ∧ 2 < (stageWord s a).toNat)

/-! Binary32 and binary64 data as numbers (R10, R150). -/

/-- Magnitude of a datum in units of 2^-149, from its exponent and fraction fields; of an infinity, the number past every
finite datum that the same formula gives. -/
def magnitude (x : F32) : Nat :=
  if x.extractLsb' 23 8 = 0 then (x.extractLsb' 0 23).toNat
  else (2 ^ 23 + (x.extractLsb' 0 23).toNat) * 2 ^ ((x.extractLsb' 23 8).toNat - 1)

/-- Value of a datum in units of 2^-149. -/
def value (x : F32) : Int := if x.getLsbD 31 then -(magnitude x : Int) else (magnitude x : Int)

/-- Magnitude of a finite binary64 datum in units of 2^-1074. -/
def magnitude64 (d : F64) : Nat :=
  if d.extractLsb' 52 11 = 0 then (d.extractLsb' 0 52).toNat
  else (2 ^ 52 + (d.extractLsb' 0 52).toNat) * 2 ^ ((d.extractLsb' 52 11).toNat - 1)

/-- The infinity of a sign. -/
def infinity (neg : Bool) : F32 := if neg then 0xFF800000#32 else 0x7F800000#32

/-- The zero of a sign. -/
def zero (neg : Bool) : F32 := if neg then 0x80000000#32 else 0x00000000#32

/-- The sign of a product or quotient (R154, R155). -/
def signOf (a b : F32) : Bool := a.getLsbD 31 != b.getLsbD 31

/-- r is the number p/q, in units of 2^-149 and with the sign neg, rounded (R151): the nearest magnitude, ties to even,
and an infinity from the midpoint past the largest finite datum on. -/
def Rounds (neg : Bool) (p q : Nat) (r : F32) : Prop :=
  r.getLsbD 31 = neg ∧ isNaN r = false ∧
  (isFinite r = false ↔ (2 ^ 25 - 1) * 2 ^ 252 * q ≤ p) ∧
  (isFinite r = true → ∀ x : F32, isFinite x = true →
    ((p : Int) - magnitude r * q).natAbs ≤ ((p : Int) - magnitude x * q).natAbs ∧
    (((p : Int) - magnitude r * q).natAbs = ((p : Int) - magnitude x * q).natAbs →
      magnitude x = magnitude r ∨ r.getLsbD 0 = false))

/-- `wrap(x)`, step by step (R166). -/
def wrapSteps (nan : Nat → F32) (x : F32) : F32 :=
  let q := floor32 (nan 1) (fdiv (nan 0) x 0x40C90FDB#32)
  let r := fsub (nan 3) x (fmul (nan 2) q 0x40C90FDB#32)
  let r := if flt r 0x00000000#32 then fadd (nan 4) r 0x40C90FDB#32 else r
  let r := if fge r 0x40C90FDB#32 then fsub (nan 5) r 0x40C90FDB#32 else r
  if fge r 0x00000000#32 && flt r 0x40C90FDB#32 then r else 0x00000000#32

/-! Frames. -/

/-- What a mode body may touch besides the output it hands on: operator i (R215). -/
def OperatorFrame (i : OpIdx) (s t : State) : Prop :=
  t = { s with op := t.op, seq := { s.seq with out := t.seq.out }, draws := t.draws }
    ∧ ∀ j : OpIdx, j ≠ i → t.op[j] = s.op[j]

/-- Every OUTBUF word, and every delay word but word k of operator i, reads as before. -/
def MemoryKeptBut (i : OpIdx) (k : DelayIdx) (s t : State) : Prop :=
  (∀ a, outbufRead a t = outbufRead a s)
    ∧ ∀ (j : OpIdx) (l : DelayIdx), ¬(j = i ∧ l = k) → delayRead j l t = delayRead j l s

/-- Operator i is as OP.RESET leaves it (R202). -/
def OperatorCleared (i : OpIdx) (t : State) : Prop :=
  t.op[i].ph = 0x00000000#32 ∧ t.op[i].s1 = 0x00000000#32 ∧ t.op[i].s2 = 0x00000000#32 ∧ t.op[i].w = 0
    ∧ ∀ k, delayRead i k t = 0x00000000#32

/-- Envelope e becomes x, its level is handed on, and nothing else changes. -/
def EnvelopeBecomes (e : EnvIdx) (x : Envelope) (s t : State) : Prop :=
  t = { s with
        env := s.env.set e.val x e.isLt
        seq := { s.seq with ev := s.seq.ev.set e.val x.level e.isLt }
        draws := t.draws }
    ∧ memoryKept s t

/-! Formulas. -/

/-- The envelope after ENV.LOAD (R252). -/
def loaded (nan : Nat → F32) (fs : F32) (p : EnvParams) (x : Envelope) : Envelope :=
  { x with
    sus := clamp p.sustain 0x00000000#32 0x3F800000#32
    aInc :=
      if fgt (fmul (nan 0) p.attack fs) 0x00000000#32 then fdiv (nan 1) 0x3F800000#32 (fmul (nan 0) p.attack fs)
      else 0x3F800000#32
    dDec :=
      if fgt (fmul (nan 2) p.decay fs) 0x00000000#32 then
        fdiv (nan 4) (fsub (nan 3) 0x3F800000#32 (clamp p.sustain 0x00000000#32 0x3F800000#32))
          (fmul (nan 2) p.decay fs)
      else 0x3F800000#32
    rSamples := fmul (nan 5) p.release fs
    retrig := p.retrig }

/-- The release decrement of ENV.NOTEOFF (R259). -/
def releaseDecrement (nan : F32) (x : Envelope) : F32 :=
  if fgt (if fgt x.rSamples 0x00000000#32 then fdiv nan x.level x.rSamples else x.level) 0x00000000#32 then
    (if fgt x.rSamples 0x00000000#32 then fdiv nan x.level x.rSamples else x.level)
  else x.level

/-- The phase one sample later (R204, R283). -/
def nextPhase (nan : Nat → F32) (ph hz fs : F32) : F32 :=
  wrap (fun k => nan (3 + k)) (fadd (nan 2) ph (fdiv (nan 1) (fmul (nan 0) 0x40C90FDB#32 hz) fs))

/-- The waveforms (R284 to R287). -/
def waveform (nan : Nat → F32) (sel : Fin 4) (ph : F32) : F32 :=
  match sel with
  | 0 => sin32 (nan 0) ph
  | 1 => clamp (fmul (nan 2) (asin32 (nan 1) (sin32 (nan 0) ph)) 0x3F22F983#32) 0xBF800000#32 0x3F800000#32
  | 2 => fsub (nan 1) (fdiv (nan 0) ph 0x40490FDB#32) 0x3F800000#32
  | 3 => if flt ph 0x40490FDB#32 then 0x3F800000#32 else 0xBF800000#32

/-- The instruction of a waveform selector (R121). -/
def waveInstr (sel : Fin 4) (k : LfoIdx) : Instr :=
  match sel with
  | 0 => .waveSine k
  | 1 => .waveTriangle k
  | 2 => .waveSaw k
  | 3 => .waveSquare k

/-- SRCVAL (R232). -/
def sourceValue (s : State) (src : Fin 3) : F32 :=
  match src with
  | 0 => s.seq.lv[0]
  | 1 => s.seq.lv[1]
  | 2 => s.mw

/-- The element of the offset array at an index (R230). -/
def offset (s : State) (d : Nat) : F32 := s.seq.off[d]?.getD 0

/-- One slot's contribution to the offset of destination d (R231). -/
def slotTerm (nan : Nat → F32) (s : State) (d : Dest) (x : F32) (j : SlotIdx) : F32 :=
  if s.act.slot[j].dest = d then
    fadd (nan (2 * j.val + 1)) x (fmul (nan (2 * j.val)) (sourceValue s s.act.slot[j].src) s.act.slot[j].amount)
  else x

/-- One direct mapping's contribution to the offset of destination d (R231). -/
def directTerm (nan : Nat → F32) (s : State) (d : Dest) (x : F32) (k : LfoIdx) : F32 :=
  if s.act.lfo[k].ddest = d then
    fadd (nan (17 + 2 * k.val)) x (fmul (nan (16 + 2 * k.val)) s.seq.lv[k] s.act.lfo[k].ddepth)
  else x

/-- The offset ROUTE gives destination d: slots ascending, then LFO-1's mapping, then LFO-2's (R231). -/
def routedOffset (nan : Nat → F32) (s : State) (d : Dest) : F32 :=
  (List.finRange 2).foldl (directTerm nan s d) ((List.finRange 8).foldl (slotTerm nan s d) 0x00000000#32)

/-- What a destination register multiplies (R231): its source's value and its depth. -/
def contribution (nan : F32) (site : DestSite) (s : State) : F32 :=
  match site with
  | .slot j => fmul nan s.seq.src s.act.slot[j].amount
  | .direct k => fmul nan s.seq.lv[k] s.act.lfo[k].ddepth

/-- A contribution through a site is added to the offset of destination index n, and to no other (R231, R234). -/
def Contributes (nan : Nat → F32) (n : Nat) (site : DestSite) (s t : State) : Prop :=
  ∀ d : Dest, t.seq.off[d] =
    if d.val = n then fadd (nan 1) s.seq.off[d] (contribution (nan 0) site s) else s.seq.off[d]

/-- The destination words 1 to 6 (R124). -/
def gainWords : List ((DestSite → Instr) × OpIdx) :=
  [(.destGain0, 0), (.destGain1, 1), (.destGain2, 2), (.destGain3, 3), (.destGain4, 4), (.destGain5, 5)]

/-- The destination words 7 to 12 (R124). -/
def ratioWords : List ((DestSite → Instr) × OpIdx) :=
  [(.destRatio0, 0), (.destRatio1, 1), (.destRatio2, 2), (.destRatio3, 3), (.destRatio4, 4), (.destRatio5, 5)]

/-- The destination words 13 to 18 (R124). -/
def ctx1Words : List ((DestSite → Instr) × OpIdx) :=
  [(.destCtx1_0, 0), (.destCtx1_1, 1), (.destCtx1_2, 2), (.destCtx1_3, 3), (.destCtx1_4, 4), (.destCtx1_5, 5)]

/-- The destination words 19 to 54 (R124): row is the receiving operator, column the source operator. -/
def cellWords : List ((DestSite → Instr) × OpIdx × OpIdx) :=
  [(.destCell00, 0, 0), (.destCell01, 0, 1), (.destCell02, 0, 2), (.destCell03, 0, 3), (.destCell04, 0, 4),
   (.destCell05, 0, 5), (.destCell10, 1, 0), (.destCell11, 1, 1), (.destCell12, 1, 2), (.destCell13, 1, 3),
   (.destCell14, 1, 4), (.destCell15, 1, 5), (.destCell20, 2, 0), (.destCell21, 2, 1), (.destCell22, 2, 2),
   (.destCell23, 2, 3), (.destCell24, 2, 4), (.destCell25, 2, 5), (.destCell30, 3, 0), (.destCell31, 3, 1),
   (.destCell32, 3, 2), (.destCell33, 3, 3), (.destCell34, 3, 4), (.destCell35, 3, 5), (.destCell40, 4, 0),
   (.destCell41, 4, 1), (.destCell42, 4, 2), (.destCell43, 4, 3), (.destCell44, 4, 4), (.destCell45, 4, 5),
   (.destCell50, 5, 0), (.destCell51, 5, 1), (.destCell52, 5, 2), (.destCell53, 5, 3), (.destCell54, 5, 4),
   (.destCell55, 5, 5)]

/-- The phase-modulation sum of operator i (R311). -/
def pmSum (nan : Nat → F32) (i : OpIdx) (s : State) : F32 :=
  (List.finRange 6).foldl (fun acc j =>
    fadd (nan (3 * j.val + 2)) acc (fmul (nan (3 * j.val + 1)) s.opout[j]
      (clamp (fadd (nan (3 * j.val)) s.act.matrix[i][j] (offset s (19 + 6 * i.val + j.val)))
        0xBF800000#32 0x3F800000#32))) 0x00000000#32

/-- The ENV.STEP instruction of a stage (R254 to R258). -/
def envStepInstr (st : EStage) (e : EnvIdx) : Instr :=
  match st with
  | .idle => .envStepIdle e
  | .attack => .envStepAttack e
  | .decay => .envStepDecay e
  | .sustain => .envStepSustain e
  | .release => .envStepRelease e

/-- Operator i's turn in the loop of R310: PM, the modulated parameters, the operator, OPOUT, both paths. -/
def OperatorTurn (i : OpIdx) (s t : State) : Prop :=
  ∃ (nan : Nat → F32) (n : Nat) (a b : State), NaNs nan ∧
    exec (.pm i) { s with seq := { s.seq with i := i } } = .next a ∧
    (let p := s.act.op[i]
     let e := if p.envsrc = 0 then s.seq.ev[0] else s.seq.ev[1]
     let gain := clamp (fadd (nan 0) p.sgain (offset s (1 + i.val))) 0x00000000#32 0x3F800000#32
     let ratio := clamp (fadd (nan 1) p.ratio (offset s (7 + i.val))) 0x3DCCCCCD#32 0x41A00000#32
     let c1 := clamp (fadd (nan 2) p.ctx1 (offset s (13 + i.val))) 0x00000000#32 0x3F800000#32
     let thz := fmul (nan 3) s.noteHz ratio
     exec (.opProcess i)
         { a with seq := { a.seq with env := e, gain := gain, ratio := ratio, c1 := c1, thz := thz }, draws := n }
       = .next b ∧
     t = { b with
           opout := b.opout.set i.val b.seq.out i.isLt
           seq := { b.seq with
                    par := fadd (nan 6) s.seq.par (fmul (nan 5) (fmul (nan 4) b.seq.out p.pgain) e)
                    chain := fmul (nan 8) (fmul (nan 7) b.seq.out gain) e }
           draws := t.draws })

/-- A function on the next state of an outcome. -/
def mapNext (f : State → State) : Result → Result
  | .next t => .next (f t)
  | .fault r => .fault r
  | .refused r => .refused r

/-- The Reset column of R50, RAM contents apart. -/
def ResetValues (s : State) : Prop :=
  (s.arg0 = 0 ∧ s.arg1 = 0 ∧ s.arg2 = 0) ∧
  (s.prepared = false ∧ s.done = false ∧ s.seqErr = false ∧ s.cfgErr = false ∧ s.argErr = false ∧ s.cmdErr = false) ∧
  (s.errinfo = 0 ∧ s.result = 0 ∧ s.fs = 0x00000000#32 ∧ s.blockSize = 0 ∧ s.noteHz = 0x00000000#32) ∧
  (s.vstate = .idle ∧ s.mw = 0x00000000#32 ∧ s.act = Snapshot.zero) ∧
  (∀ a, stageField a → busValue a s = 0) ∧
  (∀ i : OpIdx, s.opout[i] = 0x00000000#32 ∧ s.op[i].ph = 0x00000000#32 ∧ s.op[i].s1 = 0x00000000#32
    ∧ s.op[i].s2 = 0x00000000#32 ∧ s.op[i].w = 0) ∧
  (∀ e : EnvIdx, s.env[e] =
    ⟨.idle, 0x00000000#32, 0x00000000#32, 0x00000000#32, 0x00000000#32, 0x00000000#32, 0x00000000#32, false⟩) ∧
  (∀ k : LfoIdx, s.lph[k] = 0x00000000#32) ∧
  busValue 0x004 s = 0 ∧ busValue 0x007 s = 0x53495836#32

/-- No refusal since reset exactly when no error flag is set (R385). -/
def ErrorsAgree (s : State) : Prop :=
  s.errinfo = 0 ↔ s.seqErr = false ∧ s.cfgErr = false ∧ s.argErr = false ∧ s.cmdErr = false

/-- The first request is a write of a command to CMD. -/
def Runs (s : State) (c : Command) : Prop :=
  ∃ w rest, s.requests = .write 0x000 w :: rest ∧ decodeCommand w = .ok c

/-- The first request is the reset. -/
def RunsReset (s : State) : Prop := ∃ rest, s.requests = .reset :: rest

end Sys2Proof.Claims

open Sys2Proof Sys2Proof.Machine Sys2Proof.Claims

/-! Encodings. -/

/-- A few command and selector words, written out from R116 and R120 to R124, decode to their instructions. -/
def Obligations.SampleWordsDecode : Prop :=
  decode (.write 0x000 0x00000000#32) = .ok .nop ∧
  decode (.write 0x000 0x02000001#32) = .ok (.canplay 1) ∧
  decode (.write 0x000 0x03000045#32) = .ok (.startnote 69) ∧
  decode (.write 0x000 0x04000001#32) = .ok (.stopnote true) ∧
  decode (.write 0x000 0x08000001#32) = .ok (.ctrl 1) ∧
  decode (.select (.mode 3) 7#32) = .ok (.opPass 3 7) ∧
  decode (.select (.wave 1) 2#32) = .ok (.waveSaw 1) ∧
  decode (.select (.src 5) 2#32) = .ok (.srcModwheel 5) ∧
  decode (.select (.envsrc 4) 1#32) = .ok (.envsrcSecondary 4) ∧
  decode (.select (.dest (.direct 1)) 20#32) = .ok (.destCell01 (.direct 1))

/-- Decoding and encoding agree: the request an instruction is encoded as decodes to it, and a request that decodes to
an instruction is its encoding, so every request has one meaning at most. -/
def Obligations.DecodeInvertsEncode : Prop :=
  ∀ (i : Instr) (r : Request), i.wellFormed = true → (encode i = some r ↔ decode r = .ok i)

/-- The opcode map of R116: a word decodes to a command exactly when it matches the command's row, with the operands
R113 cuts from it. -/
def Obligations.CommandWordsFollowOpcodeMap : Prop :=
  ∀ w : Word,
    (decodeCommand w = .ok .nop ↔ w &&& 0xFFFFFFFF#32 = 0x00000000#32) ∧
    (decodeCommand w = .ok .prepare ↔ w &&& 0xFFFFFFFF#32 = 0x01000000#32) ∧
    (∀ tag, decodeCommand w = .ok (.canplay tag) ↔ w &&& 0xFF000000#32 = 0x02000000#32 ∧ tag = w.extractLsb' 0 24) ∧
    (∀ note, decodeCommand w = .ok (.startnote note) ↔
      w &&& 0xFFFFFF80#32 = 0x03000000#32 ∧ note = w.extractLsb' 0 7) ∧
    (∀ tail, decodeCommand w = .ok (.stopnote tail) ↔ w &&& 0xFFFFFFFE#32 = 0x04000000#32 ∧ tail = w.getLsbD 0) ∧
    (decodeCommand w = .ok .setparams ↔ w &&& 0xFFFFFFFF#32 = 0x05000000#32) ∧
    (decodeCommand w = .ok .render ↔ w &&& 0xFFFFFFFF#32 = 0x06000000#32) ∧
    (decodeCommand w = .ok .isactive ↔ w &&& 0xFFFFFFFF#32 = 0x07000000#32) ∧
    (∀ cc, decodeCommand w = .ok (.ctrl cc) ↔ w &&& 0xFFFFFF80#32 = 0x08000000#32 ∧ cc = w.extractLsb' 0 7)

/-- The decoding of a write to CMD (R112): an opcode above 8 is refused with cause 10, a word that matches no row with
cause 11, and any other word runs its command; no word matches two rows. -/
def Obligations.CmdWriteDecodesOrRefuses : Prop :=
  ∀ (w : Word) (s : State),
    (8 < (w.extractLsb' 24 8).toNat →
      ∃ t, exec (.busWrite 0x000 w) s = .next t ∧ Refused .cmdErr 10 (w.extractLsb' 8 24) s t ∧ memoryKept s t) ∧
    ((w.extractLsb' 24 8).toNat ≤ 8 → (∀ row ∈ opcodeRows, w &&& row.2 ≠ row.1) →
      ∃ t, exec (.busWrite 0x000 w) s = .next t ∧ Refused .cmdErr 11 (w.extractLsb' 8 24) s t ∧ memoryKept s t) ∧
    (∀ row ∈ opcodeRows, w &&& row.2 = row.1 →
      (∃ c, decodeCommand w = .ok c ∧ exec (.busWrite 0x000 w) s = exec c.toInstr s) ∧
      ∀ row' ∈ opcodeRows, w &&& row'.2 = row'.1 → row' = row)

/-- A step serves the first request: it is taken from the list, and the instruction it decodes to runs; a word that
decodes to none is refused as R112 says, or, for a selector word R121 to R124 reserve, is given no meaning (log 3); with
no request nothing changes (log 1). -/
def Obligations.StepServesFirstRequest : Prop :=
  (∀ s : State, s.requests = [] → step s = .next s) ∧
  ∀ (s : State) (r : Request) (rest : List Request), s.requests = r :: rest →
    (∀ i, decode r = .ok i → step s = exec i { s with requests := rest }) ∧
    (∀ info, decode r = .error (.unknownOpcode info) →
      ∃ t, step s = .next t ∧ Refused .cmdErr 10 info { s with requests := rest } t) ∧
    (∀ info, decode r = .error (.reservedBits info) →
      ∃ t, step s = .next t ∧ Refused .cmdErr 11 info { s with requests := rest } t) ∧
    (∀ site w, decode r = .error (.reservedSelector site w) → step s = .refused (.reservedSelector site w))

/-! Refusals. -/

/-- Every step but a reset keeps a set error flag set and ERRINFO as it is once it is not 0 (R391). -/
def Obligations.ErrorFlagsAreSticky : Prop :=
  ∀ s t : State, ¬RunsReset s → step s = .next t →
    (s.seqErr = true → t.seqErr = true) ∧ (s.cfgErr = true → t.cfgErr = true) ∧
    (s.argErr = true → t.argErr = true) ∧ (s.cmdErr = true → t.cmdErr = true) ∧
    (s.errinfo ≠ 0 → t.errinfo = s.errinfo)

/-- Every step keeps: ERRINFO is 0 exactly when no error flag is set (R385). -/
def Obligations.ErrinfoAgreesWithFlagsEveryStep : Prop :=
  ∀ s t : State, ErrorsAgree s → step s = .next t → ErrorsAgree t

/-- REFUSE sets its flag, loads ERRINFO if that was 0, and changes nothing else, in every state (R384). The commands'
own checks take it (R386, R388, R390): PREPARE refuses a bad rate with cause 7 and, with a good rate, a bad
block size with cause 8; STARTNOTE and RENDER refuse with cause 1 before PREPARE; RENDER refuses a range past BLOCKSIZE
with cause 9; CTRL of controller 1 refuses an infinity or a NaN with cause 12. -/
def Obligations.RefusalsSetFlagAndFirstCause : Prop :=
  ∀ s : State,
    (∀ flag cause info, ∃ t, exec (.refuse flag cause info) s = .next t ∧ Refused flag cause info s t ∧
      memoryKept s t) ∧
    ((isNaN64 (s.arg1 ++ s.arg0) = true ∨ flt64 (s.arg1 ++ s.arg0) 0x40E5888000000000#64 = true
        ∨ flt64 0x4107700000000000#64 (s.arg1 ++ s.arg0) = true) →
      ∃ t, exec .prepare s = .next t ∧ Refused .argErr 7 0 s t ∧ memoryKept s t) ∧
    (isNaN64 (s.arg1 ++ s.arg0) = false → flt64 (s.arg1 ++ s.arg0) 0x40E5888000000000#64 = false →
        flt64 0x4107700000000000#64 (s.arg1 ++ s.arg0) = false → (s.arg2.toNat < 1 ∨ 4096 < s.arg2.toNat) →
      ∃ t, exec .prepare s = .next t ∧ Refused .argErr 8 (s.arg2.extractLsb' 0 24) s t ∧ memoryKept s t) ∧
    (s.prepared = false → ∀ note,
      ∃ t, exec (.startnote note) s = .next t ∧ Refused .seqErr 1 0x03 s t ∧ memoryKept s t) ∧
    (s.prepared = false → ∃ t, exec .render s = .next t ∧ Refused .seqErr 1 0x06 s t ∧ memoryKept s t) ∧
    (s.prepared = true → s.blockSize.toNat < s.arg0.toNat + s.arg1.toNat →
      ∃ t, exec .render s = .next t ∧ Refused .argErr 9 (s.arg0.extractLsb' 0 24) s t ∧ memoryKept s t) ∧
    (isFinite s.arg0 = false → ∃ t, exec (.ctrl 1) s = .next t ∧ Refused .argErr 12 1 s t ∧ memoryKept s t)

/-! Reset and the bus. -/

/-- The state after reset, and the state HWRESET leaves, hold the values of R50 (R410). That HWRESET keeps the host's
requests and last read and the count of draws is the model's choice (log 17). -/
def Obligations.ResetLeavesResetValues : Prop :=
  ResetValues State.reset ∧
  ∀ s : State, ∃ t, exec .hwreset s = .next t ∧ ResetValues t ∧ t.requests = s.requests ∧ t.rdata = s.rdata
    ∧ t.draws = s.draws

/-- BusRead (R82): at every bus address it returns the word the map of R81 assigns, STATUS with the bits of R23, 0 where
the map has none, and changes nothing else. Where the host finds the word, rdata, is the model's choice (log 10); an
address the bus cannot carry faults (log 11). -/
def Obligations.BusReadReturnsMapWord : Prop :=
  ∀ (s : State) (a : Nat),
    (0x4000 ≤ a → exec (.busRead a) s = .fault (.noSuchAddress a)) ∧
    (a < 0x4000 → ∃ v, exec (.busRead a) s = .next { s with rdata := v } ∧ v = busValue a s ∧
      (a = 0x001 → v = s.arg0) ∧ (a = 0x002 → v = s.arg1) ∧ (a = 0x003 → v = s.arg2) ∧
      (a = 0x004 →
        v.getLsbD 0 = s.prepared ∧
        (v.extractLsb' 1 2).toNat = (match s.vstate with | .idle => 0 | .active => 1 | .releasing => 2) ∧
        v.getLsbD 3 = decide (s.vstate ≠ .idle) ∧
        v.getLsbD 4 = decide (s.env[0].stage ≠ .idle) ∧ v.getLsbD 5 = decide (s.env[1].stage ≠ .idle) ∧
        v.getLsbD 6 = s.done ∧ v.getLsbD 7 = false ∧ v.getLsbD 8 = s.seqErr ∧ v.getLsbD 9 = s.cfgErr ∧
        v.getLsbD 10 = s.argErr ∧ v.getLsbD 11 = s.cmdErr ∧ v.extractLsb' 12 20 = 0) ∧
      (a = 0x005 → v = s.errinfo) ∧ (a = 0x006 → v = s.result) ∧ (a = 0x007 → v = 0x53495836#32) ∧
      (a = 0x008 → v = s.fs) ∧ (a = 0x009 → v.toNat = s.blockSize.toNat) ∧ (a = 0x00A → v = s.noteHz) ∧
      (stageField a → s.stage[a - 0x100]? = some v) ∧
      (outbufAddr a → v = outbufRead a s) ∧
      (¬(1 ≤ a ∧ a ≤ 0x00A) → ¬stageField a → ¬outbufAddr a → v = 0))

/-- BusWrite (R83) at every bus address but CMD: a writable word then reads as the word written, every other address
reads as before, and nothing else changes; an address the bus cannot carry faults (log 11). -/
def Obligations.BusWriteStoresOneWord : Prop :=
  ∀ (s : State) (a : Nat) (v : Word),
    (0x4000 ≤ a → exec (.busWrite a v) s = .fault (.noSuchAddress a)) ∧
    (a ≠ 0x000 → a < 0x4000 → ∃ t, exec (.busWrite a v) s = .next t ∧
      t = { s with arg0 := t.arg0, arg1 := t.arg1, arg2 := t.arg2, stage := t.stage, outbuf := t.outbuf } ∧
      (writable a → busValue a t = v) ∧
      (∀ b, (b ≠ a ∨ ¬writable a) → busValue b t = busValue b s) ∧
      ∀ (i : OpIdx) (k : DelayIdx), delayRead i k t = delayRead i k s)

/-- DRead and DWrite (R90): a read hands on the word in the transient values (log 2), a write sets that word and no
other, in memory in the model's canonical form (log 12), which it keeps. -/
def Obligations.DelayWordReadAfterWrite : Prop :=
  ∀ (s : State) (i : OpIdx) (k : DelayIdx),
    exec (.dReadDWrite i k none) s = .next { s with seq := { s.seq with dval := delayRead i k s } } ∧
    (memoryWf s = true → ∀ v, ∃ t, exec (.dReadDWrite i k (some v)) s = .next t ∧
      delayRead i k t = v ∧ MemoryKeptBut i k s t ∧ memoryWf t = true ∧
      t = { s with op := t.op } ∧ t.op[i] = { s.op[i] with dly := t.op[i].dly } ∧
      ∀ j : OpIdx, j ≠ i → t.op[j] = s.op[j])

/-! Operators. -/

/-- OP.RESET zeroes the phase, the integrators, the delay RAM and the write index of its operator and nothing else
(R202); OP.PREPARE is OP.RESET (R201). -/
def Obligations.OperatorResetClearsOneOperator : Prop :=
  ∀ (s : State) (i : OpIdx),
    (∃ t, exec (.opReset i) s = .next t ∧ OperatorCleared i t ∧ t = { s with op := t.op } ∧
      (∀ j : OpIdx, j ≠ i → t.op[j] = s.op[j] ∧ ∀ k, delayRead j k t = delayRead j k s) ∧
      ∀ a, outbufRead a t = outbufRead a s) ∧
    exec (.opPrepare i) s = exec (.opReset i) s

/-- OP.OSC (R204): output, new phase, frame. Operands and output stand in the transient values (log 2). -/
def Obligations.OscillatorSample : Prop :=
  ∀ (s : State) (i : OpIdx), ∃ (nan : Nat → F32) (t : State), NaNs nan ∧ exec (.opOsc i) s = .next t ∧
    t.seq.out = fadd (nan 4)
      (sin32 (nan 3) (fadd (nan 2) (fadd (nan 0) s.op[i].ph s.seq.pm) (fmul (nan 1) s.seq.c1 0x40C90FDB#32)))
      s.seq.chain ∧
    t.op[i] = { s.op[i] with ph := nextPhase (fun k => nan (5 + k)) s.op[i].ph s.seq.thz s.fs } ∧
    OperatorFrame i s t ∧ memoryKept s t

/-- OP.LPF (R206, R207): output, new integrators, frame. Input and output stand in the transient values (log 2). -/
def Obligations.LowPassSample : Prop :=
  ∀ (s : State) (i : OpIdx), ∃ (nan : Nat → F32) (t : State), NaNs nan ∧ exec (.opLpf i) s = .next t ∧
    (let x := s.seq.chain
     let kt := s.act.op[i].keytrk
     let fc := clamp (fadd (nan 4) (fadd (nan 1) 0x41A00000#32 (fmul (nan 0) s.seq.c1 0x469C1800#32))
       (fmul (nan 3) (fsub (nan 2) s.noteHz 0x43DC0000#32) kt)) 0x41A00000#32 0x469C4000#32
     let q := clamp (fadd (nan 6) (fmul (nan 5) s.act.op[i].ctx2 0x411E6666#32) 0x3DCCCCCD#32)
       0x3DCCCCCD#32 0x41200000#32
     let g := tan32 (fdiv (nan 8) (fmul (nan 7) 0x40490FDB#32 fc) s.fs)
     let r2 := fdiv (nan 9) 0x3F800000#32 q
     let h := fdiv (nan 14) 0x3F800000#32
       (fadd (nan 13) (fadd (nan 11) 0x3F800000#32 (fmul (nan 10) r2 g)) (fmul (nan 12) g g))
     let yHP := fmul (nan 19) h
       (fsub (nan 18) (fsub (nan 17) x (fmul (nan 16) s.op[i].s1 (fadd (nan 15) g r2))) s.op[i].s2)
     let tt := fmul (nan 20) yHP g
     let yBP := fadd (nan 21) tt s.op[i].s1
     let u := fmul (nan 23) yBP g
     let yLP := fadd (nan 24) u s.op[i].s2
     t.seq.out = yLP ∧
     t.op[i] = { s.op[i] with s1 := fadd (nan 22) tt yBP, s2 := fadd (nan 25) u yLP }) ∧
    OperatorFrame i s t ∧ memoryKept s t

/-- OP.COMB (R210 to R212): output, the one delay word written, the write index, frame; in memory in canonical form
(log 12), input and output in the transient values (log 2). -/
def Obligations.CombSample : Prop :=
  ∀ (s : State) (i : OpIdx), memoryWf s = true →
    ∃ (nan : Nat → F32) (t : State), NaNs nan ∧ exec (.opComb i) s = .next t ∧
    (let x := s.seq.chain
     let w := s.op[i].w
     let fb := clamp s.seq.c1 0x00000000#32 0x3F7AE148#32
     let dhz := clamp (fadd (nan 1) 0x41A00000#32 (fmul (nan 0) s.act.op[i].ctx2 0x461BF000#32))
       0x41A00000#32 0x468CA000#32
     let n := (f2i (fdiv (nan 2) s.fs dhz)).toNat
     let len := if n < 1 then 1 else if 131071 < n then 131071 else n
     let d := delayRead i (w - BitVec.ofNat Config.params.delayBits len) s
     t.seq.out = fadd (nan 3) x d ∧
     delayRead i w t = fadd (nan 5) x (fmul (nan 4) d fb) ∧
     t.op[i] = { s.op[i] with dly := t.op[i].dly, w := w + 1 } ∧
     t = { s with op := t.op, seq := { s.seq with out := t.seq.out, dval := d }, draws := t.draws } ∧
     (∀ j : OpIdx, j ≠ i → t.op[j] = s.op[j]) ∧
     MemoryKeptBut i w s t)

/-- OP.PASS returns its input bit for bit and touches no state (R214); OP.PROCESS runs the body its operator's MODE
selects (R203). -/
def Obligations.ProcessRunsTheSelectedMode : Prop :=
  ∀ (s : State) (i : OpIdx),
    (∀ value, exec (.opPass i value) s = .next { s with seq := { s.seq with out := s.seq.chain } }) ∧
    (s.act.op[i].mode = 0 → exec (.opProcess i) s = exec (.opOsc i) s) ∧
    (s.act.op[i].mode = 1 → exec (.opProcess i) s = exec (.opLpf i) s) ∧
    (s.act.op[i].mode = 2 → exec (.opProcess i) s = exec (.opComb i) s) ∧
    (3 ≤ s.act.op[i].mode.toNat → exec (.opProcess i) s = exec (.opPass i s.act.op[i].mode) s)

/-- Each mode body reads and writes only its own part of its operator (R215): with the other parts changed, the output
and its own part come out the same, and the other parts stay as they are. That outputs which are NaNs agree too is the
model's choice, by the one counter of draws (log 4). -/
def Obligations.ModesAreIsolated : Prop :=
  ∀ (s : State) (i : OpIdx) (o : Operator),
    ∃ t t', exec (.opProcess i) s = .next t ∧
      exec (.opProcess i) { s with op := s.op.set i.val o i.isLt } = .next t' ∧
      (∀ j : OpIdx, j ≠ i → t.op[j] = s.op[j]) ∧
      (s.act.op[i].mode = 0 → t.op[i] = { s.op[i] with ph := t.op[i].ph } ∧
        (o.ph = s.op[i].ph → t'.seq.out = t.seq.out ∧ t'.op[i] = { o with ph := t.op[i].ph })) ∧
      (s.act.op[i].mode = 1 → t.op[i] = { s.op[i] with s1 := t.op[i].s1, s2 := t.op[i].s2 } ∧
        (o.s1 = s.op[i].s1 → o.s2 = s.op[i].s2 →
          t'.seq.out = t.seq.out ∧ t'.op[i] = { o with s1 := t.op[i].s1, s2 := t.op[i].s2 })) ∧
      (s.act.op[i].mode = 2 → t.op[i] = { s.op[i] with dly := t.op[i].dly, w := t.op[i].w } ∧
        (o.dly = s.op[i].dly → o.w = s.op[i].w →
          t'.seq.out = t.seq.out ∧ t'.op[i] = { o with dly := t.op[i].dly, w := t.op[i].w })) ∧
      (3 ≤ s.act.op[i].mode.toNat → t.op[i] = s.op[i] ∧ t'.seq.out = t.seq.out ∧ t'.op[i] = o)

/-! Envelopes. -/

/-- ENV.LOAD latches the five parameters; stage, level and R_DEC stay (R252). -/
def Obligations.EnvelopeLoadLatches : Prop :=
  ∀ (s : State) (e : EnvIdx), ∃ (nan : Nat → F32) (t : State), NaNs nan ∧ exec (.envLoad e) s = .next t ∧
    t = { s with env := s.env.set e.val (loaded nan s.fs s.act.env[e] s.env[e]) e.isLt, draws := t.draws } ∧
    memoryKept s t

/-- The note events of an envelope. ENV.NOTEON enters attack from any stage, from level +0.0 if the latched retrigger
flag is set (R253); ENV.NOTEOFF enters release from any stage and computes the decrement from the level it finds (R259);
ENV.KILL goes idle at level +0.0 and keeps the latched parameters (R260). -/
def Obligations.EnvelopeNoteEvents : Prop :=
  ∀ (s : State) (e : EnvIdx),
    exec (.envNoteon e) s = .next { s with
      env := s.env.set e.val
        { s.env[e] with
          stage := .attack
          level := if s.env[e].retrig = true then 0x00000000#32 else s.env[e].level } e.isLt } ∧
    (∃ (nan : Nat → F32) (t : State), NaNs nan ∧ exec (.envNoteoff e) s = .next t ∧
      t = { s with
            env := s.env.set e.val
              { s.env[e] with stage := .release, rDec := releaseDecrement (nan 0) s.env[e] } e.isLt
            draws := t.draws } ∧
      memoryKept s t) ∧
    exec (.envKill e) s = .next { s with
      env := s.env.set e.val { s.env[e] with stage := .idle, level := 0x00000000#32 } e.isLt }

/-- ENV.STEP in each stage (R254 to R258): the new level and stage, and the updated level handed on. A row run on an
envelope in another stage changes nothing: the model's choice, since exactly one of the five rules applies (log 13). -/
def Obligations.EnvelopeStepByStage : Prop :=
  ∀ (s : State) (e : EnvIdx),
    (s.env[e].stage = .idle → ∃ t, exec (.envStepIdle e) s = .next t ∧ EnvelopeBecomes e s.env[e] s t) ∧
    (s.env[e].stage = .attack → ∃ (nan : Nat → F32) (t : State), NaNs nan ∧ exec (.envStepAttack e) s = .next t ∧
      EnvelopeBecomes e
        (if flt (fadd (nan 0) s.env[e].level s.env[e].aInc) 0x3F800000#32 = true then
          { s.env[e] with level := fadd (nan 0) s.env[e].level s.env[e].aInc }
         else { s.env[e] with level := 0x3F800000#32, stage := .decay }) s t) ∧
    (s.env[e].stage = .decay → ∃ (nan : Nat → F32) (t : State), NaNs nan ∧ exec (.envStepDecay e) s = .next t ∧
      EnvelopeBecomes e
        (if fgt (fsub (nan 0) s.env[e].level s.env[e].dDec) s.env[e].sus = true then
          { s.env[e] with level := fsub (nan 0) s.env[e].level s.env[e].dDec }
         else { s.env[e] with level := s.env[e].sus, stage := .sustain }) s t) ∧
    (s.env[e].stage = .sustain → ∃ t, exec (.envStepSustain e) s = .next t ∧
      EnvelopeBecomes e { s.env[e] with level := s.env[e].sus } s t) ∧
    (s.env[e].stage = .release → ∃ (nan : Nat → F32) (t : State), NaNs nan ∧ exec (.envStepRelease e) s = .next t ∧
      EnvelopeBecomes e
        (if fgt (fsub (nan 0) s.env[e].level s.env[e].rDec) 0x00000000#32 = true then
          { s.env[e] with level := fsub (nan 0) s.env[e].level s.env[e].rDec }
         else { s.env[e] with level := 0x00000000#32, stage := .idle }) s t) ∧
    ∀ st : EStage, s.env[e].stage ≠ st → exec (envStepInstr st e) s = .next s

/-! LFOs. -/

/-- LFO.SYNC zeroes its phase if the sync flag in ACT is set, and otherwise does nothing (R281). -/
def Obligations.LfoSyncFollowsFlag : Prop :=
  ∀ (s : State) (k : LfoIdx),
    (s.act.lfo[k].sync = true →
      exec (.lfoSync k) s = .next { s with lph := s.lph.set k.val 0x00000000#32 k.isLt }) ∧
    (s.act.lfo[k].sync = false → exec (.lfoSync k) s = .next s)

/-- The four waveforms of the phase (R284 to R287); nothing else changes. That the value is handed on in the transient
values is the model's choice (log 2). -/
def Obligations.WaveformsOfThePhase : Prop :=
  ∀ (s : State) (k : LfoIdx) (sel : Fin 4), ∃ (nan : Nat → F32) (t : State), NaNs nan ∧
    exec (waveInstr sel k) s = .next t ∧
    t = { s with seq := { s.seq with wave := waveform nan sel s.lph[k] }, draws := t.draws } ∧ memoryKept s t

/-- Every waveform of a phase in range lies in [-1, 1] (R288 (b)). -/
def Obligations.WaveformsStayInUnitRange : Prop :=
  ∀ (s : State) (k : LfoIdx) (sel : Fin 4), inPhase s.lph[k] →
    ∃ t, exec (waveInstr sel k) s = .next t ∧ fle 0xBF800000#32 t.seq.wave = true
      ∧ fle t.seq.wave 0x3F800000#32 = true

/-- LFO.STEP: the waveform ACT selects, of the phase before the advance, times the amount; then the advance (R283). -/
def Obligations.LfoStepScalesThenAdvances : Prop :=
  ∀ (s : State) (k : LfoIdx), ∃ (nan : Nat → F32) (t : State), NaNs nan ∧ exec (.lfoStep k) s = .next t ∧
    (let w := waveform nan s.act.lfo[k].wave s.lph[k]
     let lv := fmul (nan 3) w s.act.lfo[k].amount
     t = { s with
           lph := s.lph.set k.val (nextPhase (fun n => nan (4 + n)) s.lph[k] s.act.lfo[k].freq s.fs) k.isLt
           seq := { s.seq with wave := w, lv := s.seq.lv.set k.val lv k.isLt }
           draws := t.draws }) ∧
    memoryKept s t

/-! The router. -/

/-- The selector words of sources and envelopes hand on the value they name (R232, R314), whichever register the word
stands in. That the value is handed on in the transient values is the model's choice (logs 2, 15). -/
def Obligations.SelectorsHandOnTheirValue : Prop :=
  ∀ (s : State) (j : SlotIdx) (i : OpIdx),
    exec (.srcLfo1 j) s = .next { s with seq := { s.seq with src := s.seq.lv[0] } } ∧
    exec (.srcLfo2 j) s = .next { s with seq := { s.seq with src := s.seq.lv[1] } } ∧
    exec (.srcModwheel j) s = .next { s with seq := { s.seq with src := s.mw } } ∧
    exec (.envsrcPrimary i) s = .next { s with seq := { s.seq with env := s.seq.ev[0] } } ∧
    exec (.envsrcSecondary i) s = .next { s with seq := { s.seq with env := s.seq.ev[1] } }

/-- Destinations 1 to 18 (R124, R231, R312): the contribution is added to the destination's offset, and the serial gain,
ratio or context-1 is the nominal value plus the offset, clamped. That the row also forms the parameter is the model's
reading of a selector row (log 14). -/
def Obligations.ParameterDestinationsAccumulate : Prop :=
  ∀ (s : State) (site : DestSite),
    (∀ p ∈ gainWords, ∃ (nan : Nat → F32) (t : State), NaNs nan ∧ exec (p.1 site) s = .next t ∧
      Contributes nan (1 + p.2.val) site s t ∧
      t.seq.gain = clamp (fadd (nan 2) s.act.op[p.2].sgain (offset t (1 + p.2.val))) 0x00000000#32 0x3F800000#32 ∧
      t = { s with seq := { s.seq with off := t.seq.off, gain := t.seq.gain }, draws := t.draws } ∧ memoryKept s t) ∧
    (∀ p ∈ ratioWords, ∃ (nan : Nat → F32) (t : State), NaNs nan ∧ exec (p.1 site) s = .next t ∧
      Contributes nan (7 + p.2.val) site s t ∧
      t.seq.ratio = clamp (fadd (nan 2) s.act.op[p.2].ratio (offset t (7 + p.2.val))) 0x3DCCCCCD#32 0x41A00000#32 ∧
      t = { s with seq := { s.seq with off := t.seq.off, ratio := t.seq.ratio }, draws := t.draws } ∧ memoryKept s t) ∧
    (∀ p ∈ ctx1Words, ∃ (nan : Nat → F32) (t : State), NaNs nan ∧ exec (p.1 site) s = .next t ∧
      Contributes nan (13 + p.2.val) site s t ∧
      t.seq.c1 = clamp (fadd (nan 2) s.act.op[p.2].ctx1 (offset t (13 + p.2.val))) 0x00000000#32 0x3F800000#32 ∧
      t = { s with seq := { s.seq with off := t.seq.off, c1 := t.seq.c1 }, draws := t.draws } ∧ memoryKept s t)

/-- Destinations 19 to 54 (R124, R231, R311): the same for the 36 matrix cells, row-major. Log 14. -/
def Obligations.CellDestinationsAccumulate : Prop :=
  ∀ (s : State) (site : DestSite), ∀ p ∈ cellWords, ∃ (nan : Nat → F32) (t : State), NaNs nan ∧
    exec (p.1 site) s = .next t ∧
    Contributes nan (19 + 6 * p.2.1.val + p.2.2.val) site s t ∧
    t.seq.weight = clamp (fadd (nan 2) s.act.matrix[p.2.1][p.2.2] (offset t (19 + 6 * p.2.1.val + p.2.2.val)))
      0xBF800000#32 0x3F800000#32 ∧
    t = { s with seq := { s.seq with off := t.seq.off, weight := t.seq.weight }, draws := t.draws } ∧ memoryKept s t

/-- ROUTE (R231): every offset is the sum, in the order of the rule, of the contributions that name it; offset 0 is
+0.0. -/
def Obligations.RouteSumsContributions : Prop :=
  ∀ s : State, ∃ (nan : Nat → F32) (t : State), NaNs nan ∧ exec .route s = .next t ∧
    (∀ d : Dest, t.seq.off[d] = if d = 0 then 0x00000000#32 else routedOffset nan s d) ∧
    t = { s with seq := { s.seq with off := t.seq.off, src := t.seq.src }, draws := t.draws } ∧ memoryKept s t

/-- Destination 0 is an inert sink (R233): changing the source and the amount of a slot with destination 0, or the depth
of a direct mapping with destination 0, changes nothing that RENDER does. That the two runs give the same NaN words and
count of draws is the model's choice, by the one counter of draws (log 4). -/
def Obligations.DestinationZeroIsInert : Prop :=
  ∀ s : State,
    (∀ (j : SlotIdx) (src : Fin 3) (amount : F32), s.act.slot[j].dest = 0 →
      (let f : State → State := fun t =>
        { t with act := { t.act with slot := t.act.slot.set j.val ⟨src, 0, amount⟩ j.isLt } }
       exec .render (f s) = mapNext f (exec .render s))) ∧
    (∀ (k : LfoIdx) (depth : F32), s.act.lfo[k].ddest = 0 →
      (let f : State → State := fun t =>
        { t with act := { t.act with lfo := t.act.lfo.set k.val { t.act.lfo[k] with ddepth := depth } k.isLt } }
       exec .render (f s) = mapNext f (exec .render s)))

/-! The voice. -/

/-- PM (R311): the sum over the source operators, ascending, of OPOUT times the modulated, clamped weight; nothing but
the transient values changes (log 2). -/
def Obligations.PhaseModulationSum : Prop :=
  ∀ (s : State) (i : OpIdx), ∃ (nan : Nat → F32) (t : State), NaNs nan ∧ exec (.pm i) s = .next t ∧
    t.seq.pm = pmSum nan i s ∧
    t = { s with seq := { s.seq with pm := t.seq.pm, weight := t.seq.weight }, draws := t.draws } ∧ memoryKept s t

/-- VOICE.SAMPLE (R310): LFO-1, LFO-2, ROUTE, both envelopes, the six operators in index order, the headroom; and of
memory only the word a comb writes changes. -/
def Obligations.VoiceSampleRunsItsSteps : Prop :=
  ∀ s : State, ∃ (nan : Nat → F32) (a b c d e t : State) (u : Nat → State), NaNs nan ∧
    exec (.lfoStep 0) s = .next a ∧ exec (.lfoStep 1) a = .next b ∧ exec .route b = .next c ∧
    exec (envStepInstr c.env[0].stage 0) c = .next d ∧ exec (envStepInstr d.env[1].stage 1) d = .next e ∧
    u 0 = { e with seq := { e.seq with chain := 0x00000000#32, par := 0x00000000#32 } } ∧
    (∀ i : OpIdx, OperatorTurn i (u i.val) (u (i.val + 1))) ∧
    exec .voiceSample s = .next t ∧
    t = { u 6 with
          seq := { (u 6).seq with
                   y := fmul (nan 1) (fadd (nan 0) (u 6).seq.par (u 6).seq.chain) 0x3E4CCCCD#32 }
          draws := t.draws } ∧
    voiceFrame s t ∧ (∀ x, outbufRead x t = outbufRead x s) ∧
    ∀ (i : OpIdx) (k : DelayIdx), ¬(s.act.op[i].mode = 2 ∧ k = s.op[i].w) → delayRead i k t = delayRead i k s

/-- OUT.ADD (R318): y is added, with one fadd, to the frame's word of both channels, and no other word changes. Where
the frame's address lies outside OUTBUF, which RENDER's range check rules out, nothing is written (log 22). -/
def Obligations.OutAddWritesEveryChannel : Prop :=
  ∀ s : State, ∃ (nan : Nat → F32) (t : State), NaNs nan ∧ exec .outAdd s = .next t ∧
    (∀ c : Fin 2, outbufAddr (0x1000 + 0x1000 * c.val + (s.arg0.toNat + s.seq.n.toNat)) →
      outbufRead (0x1000 + 0x1000 * c.val + (s.arg0.toNat + s.seq.n.toNat)) t =
        fadd (nan c.val) (outbufRead (0x1000 + 0x1000 * c.val + (s.arg0.toNat + s.seq.n.toNat)) s) s.seq.y) ∧
    (∀ x, (∀ c : Fin 2, outbufAddr x → x ≠ 0x1000 + 0x1000 * c.val + (s.arg0.toNat + s.seq.n.toNat)) →
      outbufRead x t = outbufRead x s) ∧
    (∀ (i : OpIdx) (k : DelayIdx), delayRead i k t = delayRead i k s) ∧
    t = { s with outbuf := t.outbuf, draws := t.draws }

/-- COMPLETE (R320): with both envelopes idle the voice goes Idle and DONE is set; otherwise nothing changes. -/
def Obligations.CompletionNeedsBothEnvelopesIdle : Prop :=
  ∀ s : State,
    (s.env[0].stage = .idle → s.env[1].stage = .idle →
      exec .complete s = .next { s with vstate := .idle, done := true }) ∧
    ((s.env[0].stage ≠ .idle ∨ s.env[1].stage ≠ .idle) → exec .complete s = .next s)

/-- The NOTE_HZ ROM (R176): the words of the top octave, and a note's word is one unit of the exponent below the word of
the note an octave higher. -/
def Obligations.NoteRomHoldsEqualTemperament : Prop :=
  (∀ (note : BitVec 7) (s : State), ∃ t, exec (.noteHz note) s = .next t ∧ t = { s with noteHz := t.noteHz } ∧
    memoryKept s t ∧
    (note.toNat < 116 → ∃ u, exec (.noteHz (note + 12)) s = .next u ∧ u.noteHz = t.noteHz + 0x00800000#32)) ∧
  ∀ s : State, ∀ p ∈ [(116#7, 0x45CFA700#32), (117#7, 0x45DC0000#32), (118#7, 0x45E914F6#32), (119#7, 0x45F6F110#32),
      (120#7, 0x4602D013#32), (121#7, 0x460A9760#32), (122#7, 0x4612D517#32), (123#7, 0x461B9041#32),
      (124#7, 0x4624D054#32), (125#7, 0x462E9D37#32), (126#7, 0x4638FF49#32), (127#7, 0x4643FF6A#32)],
    ∃ t, exec (.noteHz p.1) s = .next t ∧ t.noteHz = p.2

/-! Commands. -/

/-- NOP changes nothing (R340), a destination word 0 changes nothing (R124, R233), CANPLAY and ISACTIVE write RESULT
only (R347, R348). -/
def Obligations.AnswersAndInertInstructions : Prop :=
  ∀ s : State,
    exec .nop s = .next s ∧
    (∀ site, exec (.destNone site) s = .next s) ∧
    (∀ tag : BitVec 24, exec (.canplay tag) s = .next { s with result := if tag.toNat = 1 then 1 else 0 }) ∧
    exec .isactive s = .next { s with result := if s.vstate = .idle then 0 else 1 }

/-- PREPARE with a legal rate and block size (R341): what it sets, and that it changes nothing else. FS is the rate
converted to binary32, rounded to the nearest, ties to even (R164). -/
def Obligations.PrepareInitialisesTheVoice : Prop :=
  ∀ s : State, isNaN64 (s.arg1 ++ s.arg0) = false → flt64 (s.arg1 ++ s.arg0) 0x40E5888000000000#64 = false →
    flt64 0x4107700000000000#64 (s.arg1 ++ s.arg0) = false → 1 ≤ s.arg2.toNat → s.arg2.toNat ≤ 4096 →
    ∃ t, exec .prepare s = .next t ∧
      Rounds false (magnitude64 (s.arg1 ++ s.arg0)) (2 ^ 925) t.fs ∧ isFinite t.fs = true ∧ t.blockSize.toNat = s.arg2.toNat ∧
      (∀ i : OpIdx, OperatorCleared i t ∧ t.opout[i] = 0x00000000#32) ∧
      (∀ e : EnvIdx, t.env[e] = { s.env[e] with stage := .idle, level := 0x00000000#32 }) ∧
      (∀ k : LfoIdx, t.lph[k] = 0x00000000#32) ∧
      t.vstate = .idle ∧ t.done = false ∧ t.prepared = true ∧
      t = { s with fs := t.fs, blockSize := t.blockSize, op := t.op, opout := t.opout, env := t.env, lph := t.lph,
                   vstate := t.vstate, done := t.done, prepared := t.prepared } ∧
      ∀ a, outbufRead a t = outbufRead a s

/-- A second PREPARE with the same operands leaves the state the first one left (R341, R89). -/
def Obligations.PrepareIsIdempotent : Prop :=
  ∀ s t : State, exec .prepare s = .next t → exec .prepare t = .next t

/-- SETPARAMS with no offending word (R342): every field of ACT, and MW, is its STAGE word, and nothing else changes. -/
def Obligations.SetparamsPublishesTheSnapshot : Prop :=
  ∀ s : State, (∀ a cause, ¬Offends s a cause) →
    ∃ t, exec .setparams s = .next t ∧ t = { s with act := t.act, mw := t.mw } ∧ memoryKept s t ∧
      t.mw = stageWord s 0x120 ∧
      (∀ e : EnvIdx, t.act.env[e] =
        ⟨stageWord s (0x100 + 8 * e.val), stageWord s (0x101 + 8 * e.val), stageWord s (0x102 + 8 * e.val),
         stageWord s (0x103 + 8 * e.val), (stageWord s (0x104 + 8 * e.val)).getLsbD 0⟩) ∧
      (∀ k : LfoIdx,
        t.act.lfo[k].freq = stageWord s (0x110 + 8 * k.val) ∧ t.act.lfo[k].amount = stageWord s (0x111 + 8 * k.val) ∧
        t.act.lfo[k].wave.val = (stageWord s (0x112 + 8 * k.val)).toNat ∧
        t.act.lfo[k].sync = (stageWord s (0x113 + 8 * k.val)).getLsbD 0 ∧
        t.act.lfo[k].ddest.val = (stageWord s (0x114 + 8 * k.val)).toNat ∧
        t.act.lfo[k].ddepth = stageWord s (0x115 + 8 * k.val)) ∧
      (∀ i : OpIdx,
        t.act.op[i].mode = stageWord s (0x130 + 8 * i.val) ∧ t.act.op[i].ratio = stageWord s (0x131 + 8 * i.val) ∧
        t.act.op[i].sgain = stageWord s (0x132 + 8 * i.val) ∧ t.act.op[i].pgain = stageWord s (0x133 + 8 * i.val) ∧
        t.act.op[i].ctx1 = stageWord s (0x134 + 8 * i.val) ∧ t.act.op[i].ctx2 = stageWord s (0x135 + 8 * i.val) ∧
        t.act.op[i].keytrk = stageWord s (0x136 + 8 * i.val) ∧
        t.act.op[i].envsrc.val = (stageWord s (0x137 + 8 * i.val)).toNat) ∧
      (∀ j : SlotIdx,
        t.act.slot[j].src.val = (stageWord s (0x160 + 4 * j.val)).toNat ∧
        t.act.slot[j].dest.val = (stageWord s (0x161 + 4 * j.val)).toNat ∧
        t.act.slot[j].amount = stageWord s (0x162 + 4 * j.val)) ∧
      ∀ i j : OpIdx, t.act.matrix[i][j] = stageWord s (0x180 + 6 * i.val + j.val)

/-- SETPARAMS with an offending word (R342, R387): the first one in address order decides cause and information, and
nothing is copied. -/
def Obligations.SetparamsRefusesTheFirstOffender : Prop :=
  ∀ (s : State) (a cause : Nat), Offends s a cause → (∀ b, b < a → ∀ c, ¬Offends s b c) →
    ∃ t, exec .setparams s = .next t ∧ Refused .cfgErr (BitVec.ofNat 8 cause) (BitVec.ofNat 24 a) s t ∧ memoryKept s t

/-- STARTNOTE on a prepared block, in every voice state (R343). -/
def Obligations.StartnoteStartsTheNote : Prop :=
  ∀ (s : State) (note : BitVec 7), s.prepared = true →
    ∃ (nan : EnvIdx → Nat → F32) (t r : State), (∀ e, NaNs (nan e)) ∧ exec (.startnote note) s = .next t ∧
      exec (.noteHz note) s = .next r ∧ t.noteHz = r.noteHz ∧
      (∀ e : EnvIdx, t.env[e] =
        { loaded (nan e) s.fs s.act.env[e] s.env[e] with
          stage := .attack
          level := if s.act.env[e].retrig = true then 0x00000000#32 else s.env[e].level }) ∧
      (∀ k : LfoIdx, t.lph[k] = if s.act.lfo[k].sync = true then 0x00000000#32 else s.lph[k]) ∧
      (∀ i : OpIdx, OperatorCleared i t ∧ t.opout[i] = 0x00000000#32) ∧
      t.vstate = .active ∧ t.done = false ∧
      t = { s with noteHz := t.noteHz, env := t.env, lph := t.lph, op := t.op, opout := t.opout, vstate := t.vstate,
                   done := t.done, draws := t.draws } ∧
      ∀ a, outbufRead a t = outbufRead a s

/-- STOPNOTE (R344): the release of a sounding voice, nothing on an Idle voice, the hard cut. -/
def Obligations.StopnoteReleasesOrCuts : Prop :=
  ∀ s : State,
    (s.vstate ≠ .idle → ∃ (nan : EnvIdx → Nat → F32) (t : State), (∀ e, NaNs (nan e)) ∧
      exec (.stopnote true) s = .next t ∧
      (∀ e : EnvIdx, t.env[e] =
        { s.env[e] with stage := .release, rDec := releaseDecrement (nan e 0) s.env[e] }) ∧
      t.vstate = .releasing ∧ t = { s with env := t.env, vstate := t.vstate, draws := t.draws } ∧ memoryKept s t) ∧
    (s.vstate = .idle → exec (.stopnote true) s = .next s) ∧
    (∃ t, exec (.stopnote false) s = .next t ∧
      (∀ e : EnvIdx, t.env[e] = { s.env[e] with stage := .idle, level := 0x00000000#32 }) ∧
      t.vstate = .idle ∧ t = { s with env := t.env, vstate := t.vstate } ∧ memoryKept s t)

/-- CTRL (R349): controller 1 writes a finite value to MW; every other controller has no effect. -/
def Obligations.ControllerOneWritesModWheel : Prop :=
  ∀ (s : State) (cc : BitVec 7),
    (cc.toNat = 1 → isFinite s.arg0 = true → exec (.ctrl cc) s = .next { s with mw := s.arg0 }) ∧
    (cc.toNat ≠ 1 → exec (.ctrl cc) s = .next s)

/-- RENDER inside the block (R345): it always completes; what it may write; the OUTBUF words it stores to are those of
the frames asked for, the delay words those that as many samples can reach; on an Idle voice or for no sample it changes
nothing but the transient values. -/
def Obligations.RenderCompletesWithinItsFrame : Prop :=
  ∀ s : State, s.prepared = true → s.arg0.toNat + s.arg1.toNat ≤ s.blockSize.toNat →
    ∃ t, exec .render s = .next t ∧ renderWrites s t ∧ t.seq = Seq.idle ∧
      (∀ x, (∀ (c : Fin 2) (k : Nat), k < s.arg1.toNat → x ≠ 0x1000 + 0x1000 * c.val + (s.arg0.toNat + k)) →
        outbufRead x t = outbufRead x s) ∧
      (∀ (i : OpIdx) (k : DelayIdx), (s.act.op[i].mode ≠ 2 ∨ s.arg1.toNat ≤ (k - s.op[i].w).toNat) →
        delayRead i k t = delayRead i k s) ∧
      ((t.vstate = s.vstate ∧ t.done = s.done) ∨ (t.vstate = .idle ∧ t.done = true)) ∧
      ((s.vstate = .idle ∨ s.arg1 = 0) → t = { s with seq := Seq.idle })

/-- RENDER of one sample of a sounding voice is VOICE.SAMPLE, OUT.ADD and COMPLETE at sample index 0 (R345). That both
give the same NaN words and count of draws is the model's choice, by the one counter of draws (log 4). -/
def Obligations.RenderOneSampleRunsSteps : Prop :=
  ∀ s : State, s.prepared = true → s.arg0.toNat + 1 ≤ s.blockSize.toNat → s.arg1 = 1 → s.vstate ≠ .idle →
    ∃ a b c, exec .voiceSample { s with seq := { s.seq with n := 0 } } = .next a ∧ exec .outAdd a = .next b ∧
      exec .complete b = .next c ∧ exec .render s = .next { c with seq := Seq.idle }

/-- Cutting a block in two (R345): RENDER of a samples, then of b more behind them, leaves the state RENDER of a + b
samples leaves, but for the operand registers. That both give the same NaN words and count of draws is the model's
choice, by the one counter of draws (log 4). -/
def Obligations.ConsecutiveRendersContinue : Prop :=
  ∀ (s : State) (a b : Nat), s.prepared = true → s.arg0.toNat + a + b ≤ s.blockSize.toNat →
    ∃ t u, exec .render { s with arg1 := BitVec.ofNat 32 (a + b) } = .next t ∧
      exec .render { s with arg1 := BitVec.ofNat 32 a } = .next u ∧
      exec .render { u with arg0 := s.arg0 + BitVec.ofNat 32 a, arg1 := BitVec.ofNat 32 b } =
        .next { t with arg0 := s.arg0 + BitVec.ofNat 32 a, arg1 := BitVec.ofNat 32 b }

/-- The retrigger property (R263): after STARTNOTE the first envelope step gives the level before it plus the increment,
or with the retrigger flag the increment alone, and 1 where that is not below 1. -/
def Obligations.RetriggerDecidesFirstLevel : Prop :=
  ∀ (s : State) (note : BitVec 7) (e : EnvIdx), s.prepared = true →
    ∃ (nan : Nat → F32) (t u : State), NaNs nan ∧ exec (.startnote note) s = .next t ∧
      exec (.envStepAttack e) t = .next u ∧
      (let l := fadd (nan 0) (if s.act.env[e].retrig = true then 0x00000000#32 else s.env[e].level) t.env[e].aInc
       u.env[e].level = (if flt l 0x3F800000#32 = true then l else 0x3F800000#32) ∧
       u.env[e].stage = (if flt l 0x3F800000#32 = true then .attack else .decay))

/-- The completion property (R264): a note started with both levels at +0.0 and stopped at once with tail-off completes
in the first rendered sample. -/
def Obligations.ImmediateStopCompletesInOneSample : Prop :=
  ∀ (s : State) (note : BitVec 7), s.prepared = true → s.arg0.toNat + 1 ≤ s.blockSize.toNat → s.arg1 = 1 →
    (∀ e : EnvIdx, s.act.env[e].retrig = true ∨ s.env[e].level = 0x00000000#32) →
    ∃ a b c, exec (.startnote note) s = .next a ∧ exec (.stopnote true) a = .next b ∧ exec .render b = .next c ∧
      c.vstate = .idle ∧ c.done = true ∧ ∀ e : EnvIdx, c.env[e].stage = .idle ∧ c.env[e].level = 0x00000000#32

/-! Rules of the whole machine. -/

/-- Who writes what: a step changes ACT only by SETPARAMS or reset (R40), MW only by SETPARAMS, CTRL or reset (R32), FS
and BLOCKSIZE only by PREPARE or reset (R28), NOTEHZ only by STARTNOTE or reset (R29), RESULT only by CANPLAY, ISACTIVE
or reset (R25). -/
def Obligations.OnlyTheirCommandsWriteRegisters : Prop :=
  ∀ s t : State, ¬RunsReset s → step s = .next t →
    (¬Runs s .setparams → t.act = s.act) ∧
    (¬Runs s .setparams → ¬Runs s (.ctrl 1) → t.mw = s.mw) ∧
    (¬Runs s .prepare → t.fs = s.fs ∧ t.blockSize = s.blockSize ∧ t.prepared = s.prepared) ∧
    ((∀ note, ¬Runs s (.startnote note)) → t.noteHz = s.noteHz) ∧
    ((∀ tag, ¬Runs s (.canplay tag)) → ¬Runs s .isactive → t.result = s.result)

/-- The transitions of VSTATE, and no others (R31, R300). -/
def Obligations.VoiceStateTransitions : Prop :=
  ∀ s t : State, step s = .next t → t.vstate ≠ s.vstate →
    (t.vstate = .active ∧ ∃ note, Runs s (.startnote note)) ∨
    (t.vstate = .releasing ∧ s.vstate = .active ∧ Runs s (.stopnote true)) ∨
    (t.vstate = .idle ∧ (Runs s (.stopnote false) ∨ Runs s .prepare ∨ RunsReset s ∨
      (Runs s .render ∧ t.done = true ∧ t.env[0].stage = .idle ∧ t.env[1].stage = .idle)))

/-- STAGE is invisible to every command but SETPARAMS (R39, R95): with other STAGE words the command does the same. That
it does the same in words that are NaNs is the model's choice, by the one counter of draws (log 4). -/
def Obligations.StageIsInvisibleUntilSetparams : Prop :=
  ∀ (s : State) (c : Command) (x : Vector Word 164), c ≠ .setparams →
    exec c.toInstr { s with stage := x } = mapNext (fun t => { t with stage := x }) (exec c.toInstr s)

/-! Arithmetic. -/

/-- Rounding (R151): sums, products and quotients of finite data are the exact result, rounded once to the nearest
datum, ties to even, an infinity past the largest (R152, R154, R155), so each of them is stated by the property and not
by the machine's rounding. Infinities, NaNs and zero divisors (R152 to R156): the invalid operations and any NaN operand
give the NaN the supply draws. Comparisons (R157): by the value, false with a NaN. -/
def Obligations.ArithmeticRoundsToNearestEven : Prop :=
  (∀ x : F32,
    (isNaN x = true ↔ x.extractLsb' 23 8 = 0xFF#8 ∧ x.extractLsb' 0 23 ≠ 0) ∧
    (isInf x = true ↔ x.extractLsb' 23 8 = 0xFF#8 ∧ x.extractLsb' 0 23 = 0) ∧
    (isFinite x = true ↔ x.extractLsb' 23 8 ≠ 0xFF#8) ∧ (isZero x = true ↔ x.extractLsb' 0 31 = 0)) ∧
  (∀ nan a b : F32, isFinite a = true → isFinite b = true →
    (value a + value b = 0 → fadd nan a b = zero (a.getLsbD 31 && b.getLsbD 31)) ∧
    (value a + value b ≠ 0 → Rounds (decide (value a + value b < 0)) (value a + value b).natAbs 1 (fadd nan a b)) ∧
    Rounds (signOf a b) (magnitude a * magnitude b) (2 ^ 149) (fmul nan a b) ∧
    (isZero b = false → Rounds (signOf a b) (magnitude a * 2 ^ 149) (magnitude b) (fdiv nan a b)) ∧
    (isZero b = true → fdiv nan a b = if isZero a then nan else infinity (signOf a b))) ∧
  (∀ nan a b : F32,
    fsub nan a b = fadd nan a (b ^^^ 0x80000000#32) ∧
    (isNaN a = true ∨ isNaN b = true → fadd nan a b = nan ∧ fmul nan a b = nan ∧ fdiv nan a b = nan) ∧
    (isInf a = true → isInf b = true →
      fadd nan a b = (if a.getLsbD 31 = b.getLsbD 31 then a else nan) ∧
      fmul nan a b = infinity (signOf a b) ∧ fdiv nan a b = nan) ∧
    (isInf a = true → isFinite b = true →
      fadd nan a b = a ∧ fmul nan a b = (if isZero b then nan else infinity (signOf a b)) ∧
      fdiv nan a b = infinity (signOf a b)) ∧
    (isFinite a = true → isInf b = true →
      fadd nan a b = b ∧ fmul nan a b = (if isZero a then nan else infinity (signOf a b)) ∧
      fdiv nan a b = zero (signOf a b))) ∧
  ∀ a b : F32,
    (isNaN a = true ∨ isNaN b = true →
      flt a b = false ∧ fle a b = false ∧ fgt a b = false ∧ fge a b = false ∧ feq a b = false ∧ fne a b = true) ∧
    (isNaN a = false → isNaN b = false →
      flt a b = decide (value a < value b) ∧ fle a b = decide (value a ≤ value b) ∧
      fgt a b = decide (value b < value a) ∧ fge a b = decide (value b ≤ value a) ∧
      feq a b = decide (value a = value b) ∧ fne a b = decide (value a ≠ value b))

/-- The derived primitives. `clamp` (R160) gives lo for a NaN, the bound a number is past, and the number itself in the
range. `floor32` (R162) returns what has no fraction, the infinities and a NaN, and gives the largest integer not above
any other number. `f2i` (R163) truncates and saturates. `f64_to_f32` (R164) rounds a finite datum to nearest even.
`wrap` (R166) takes the steps of its rule, and gives a phase in [0, 2π) for every operand, NaNs and infinities
included. -/
def Obligations.ClampAndWrapStayInRange : Prop :=
  (∀ x lo hi : F32, isFinite lo = true → isFinite hi = true → fle lo hi = true →
    isFinite (clamp x lo hi) = true ∧ fle lo (clamp x lo hi) = true ∧ fle (clamp x lo hi) hi = true ∧
    (isNaN x = true → clamp x lo hi = lo) ∧ (flt x lo = true → clamp x lo hi = lo) ∧
    (fgt x hi = true → clamp x lo hi = hi) ∧ (fle lo x = true → fle x hi = true → clamp x lo hi = x)) ∧
  (∀ nan x : F32,
    (isNaN x = true → floor32 nan x = nan) ∧
    (isInf x = true ∨ isZero x = true → floor32 nan x = x) ∧
    (isFinite x = true → 2 ^ 23 * 2 ^ 149 ≤ magnitude x → floor32 nan x = x) ∧
    (isFinite x = true → isFinite (floor32 nan x) = true ∧
      ∃ z : Int, value (floor32 nan x) = z * 2 ^ 149 ∧ z * 2 ^ 149 ≤ value x ∧ value x < (z + 1) * 2 ^ 149)) ∧
  (∀ x : F32,
    (isNaN x = true → f2i x = 0) ∧ (fle x 0x00000000#32 = true → f2i x = 0) ∧
    (fge x 0x4F800000#32 = true → f2i x = 0xFFFFFFFF#32) ∧
    (flt 0x00000000#32 x = true → flt x 0x4F800000#32 = true →
      (f2i x).toNat * 2 ^ 149 ≤ magnitude x ∧ magnitude x < ((f2i x).toNat + 1) * 2 ^ 149)) ∧
  (∀ (nan : F32) (d : F64), d.extractLsb' 52 11 ≠ 0x7FF#11 →
    Rounds (d.getLsbD 63) (magnitude64 d) (2 ^ 925) (f64ToF32 nan d)) ∧
  ∀ (nan : Nat → F32) (x : F32),
    wrap nan x = wrapSteps nan x ∧ fle 0x00000000#32 (wrap nan x) = true ∧ flt (wrap nan x) 0x40C90FDB#32 = true

/-- What R170 (S1 to S5), R171 (A1 to A4) and R172 (T1 to T3) ask of the transcendental units. The figure of SIN_ERR,
2^-24, is that R170 gives for the reference instance (log 5); those of ASIN_ERR and TAN_ERR, 2^-23, are the model's
choice (logs 6 and 7). That sin32 and asin32 of -0.0 are -0.0 follows from the symmetry. -/
def Obligations.TranscendentalUnitProperties : Prop :=
  (∀ nan x : F32, isNaN nan = true →
    (isNaN (sin32 nan x) = true ↔ isFinite x = false) ∧
    (isFinite x = true → fle 0xBF800000#32 (sin32 nan x) = true ∧ fle (sin32 nan x) 0x3F800000#32 = true ∧
      sin32 nan (fneg x) = fneg (sin32 nan x)) ∧
    (fle (fabs x) 0x42800000#32 = true →
      |(value (sin32 nan x) : ℝ) / 2 ^ 149 - Real.sin ((value x : ℝ) / 2 ^ 149)| ≤ 1 / 2 ^ 24) ∧
    sin32 nan 0x00000000#32 = 0x00000000#32) ∧
  (∀ nan x : F32, isNaN nan = true →
    (isNaN (asin32 nan x) = true ↔ isNaN x = true ∨ fgt (fabs x) 0x3F800000#32 = true) ∧
    (fle 0xBF800000#32 x = true → fle x 0x3F800000#32 = true →
      fle 0xBFC90FDB#32 (asin32 nan x) = true ∧ fle (asin32 nan x) 0x3FC90FDB#32 = true ∧
      asin32 nan (fneg x) = fneg (asin32 nan x) ∧
      |(value (asin32 nan x) : ℝ) / 2 ^ 149 - Real.arcsin ((value x : ℝ) / 2 ^ 149)| ≤ 1 / 2 ^ 23) ∧
    asin32 nan 0x00000000#32 = 0x00000000#32) ∧
  (∀ x : F32, fle 0x00000000#32 x = true → fle x 0x3FB6631F#32 = true →
    isFinite (tan32 x) = true ∧ fle 0x00000000#32 (tan32 x) = true ∧ fle (tan32 x) 0x40D9EB85#32 = true ∧
    (∀ y : F32, fle x y = true → fle y 0x3FB6631F#32 = true → fle (tan32 x) (tan32 y) = true) ∧
    |(value (tan32 x) : ℝ) / 2 ^ 149 - Real.tan ((value x : ℝ) / 2 ^ 149)|
      ≤ Real.tan ((value x : ℝ) / 2 ^ 149) / 2 ^ 23) ∧
  tan32 0x00000000#32 = 0x00000000#32

/-! Invariants. -/

/-- The state after reset meets every invariant below. -/
def Obligations.ResetStateMeetsInvariants : Prop :=
  memoryWf State.reset = true ∧ phasesOk State.reset ∧ envelopesOk State.reset ∧ voiceOk State.reset ∧
    preparedOk State.reset ∧ parametersFinite State.reset ∧ ErrorsAgree State.reset

/-- Every step keeps memory in canonical form; the form is the model's choice (log 12). -/
def Obligations.EveryStepKeepsMemoryCanonical : Prop :=
  ∀ s t : State, memoryWf s = true → step s = .next t → memoryWf t = true

/-- Every step keeps the six operator phases and the two LFO phases in [0, 2π) (R34, R38, R288 (a)). -/
def Obligations.EveryStepKeepsPhasesInRange : Prop :=
  ∀ s t : State, phasesOk s → step s = .next t → phasesOk t

/-- Every step keeps both envelopes as R262 says: level in [0, 1] and never a NaN, +0.0 when idle; with it the latched
sustain in [0, 1] (R37) and the increments not negative. -/
def Obligations.EveryStepKeepsEnvelopesInRange : Prop :=
  ∀ s t : State, envelopesOk s → step s = .next t → envelopesOk t

/-- Every step keeps: the voice is Idle exactly when both envelopes are idle (R301). -/
def Obligations.EveryStepKeepsVoiceAndEnvelopesTogether : Prop :=
  ∀ s t : State, voiceOk s → step s = .next t → voiceOk t

/-- Every step keeps the sample rate and block size of a prepared block in range (R28), and every float of ACT, and MW,
finite (R126, R342, R349). -/
def Obligations.EveryStepKeepsParametersLegal : Prop :=
  ∀ s t : State, preparedOk s → parametersFinite s → step s = .next t → preparedOk t ∧ parametersFinite t
end

