-- ==== Sys2Proof/Laws/Params.lean ====
section
/-! SUPPORT. What follows from the record for the widths. The fields themselves unfold, since Config.params is reducible. -/

namespace Sys2Proof

@[simp] theorem params_delayDepth : Config.params.delayDepth = 131072 := rfl

/-- A delay index lies below DELAY_DEPTH (R36). -/
theorem delayIdx_lt (k : DelayIdx) : k.toNat < 131072 := k.isLt

/-- A block count has 13 bits (R28). -/
theorem blockCount_lt (n : BlockCount) : n.toNat < 8192 := n.isLt

end Sys2Proof
end

