-- ==== Sys2Proof/Laws/State.lean ====
section
/-! SUPPORT. One lemma for each field of State under each update of a register file, all true by rfl; how the
updated file reads; and the frames of Safety.lean as relations that compose. -/

namespace Sys2Proof.Machine

/-! setOp changes op only. -/

@[simp] theorem setOp_arg0 (i : OpIdx) (x : Operator) (s : State) : (setOp i x s).arg0 = s.arg0 := rfl
@[simp] theorem setOp_arg1 (i : OpIdx) (x : Operator) (s : State) : (setOp i x s).arg1 = s.arg1 := rfl
@[simp] theorem setOp_arg2 (i : OpIdx) (x : Operator) (s : State) : (setOp i x s).arg2 = s.arg2 := rfl
@[simp] theorem setOp_prepared (i : OpIdx) (x : Operator) (s : State) : (setOp i x s).prepared = s.prepared := rfl
@[simp] theorem setOp_done (i : OpIdx) (x : Operator) (s : State) : (setOp i x s).done = s.done := rfl
@[simp] theorem setOp_seqErr (i : OpIdx) (x : Operator) (s : State) : (setOp i x s).seqErr = s.seqErr := rfl
@[simp] theorem setOp_cfgErr (i : OpIdx) (x : Operator) (s : State) : (setOp i x s).cfgErr = s.cfgErr := rfl
@[simp] theorem setOp_argErr (i : OpIdx) (x : Operator) (s : State) : (setOp i x s).argErr = s.argErr := rfl
@[simp] theorem setOp_cmdErr (i : OpIdx) (x : Operator) (s : State) : (setOp i x s).cmdErr = s.cmdErr := rfl
@[simp] theorem setOp_errinfo (i : OpIdx) (x : Operator) (s : State) : (setOp i x s).errinfo = s.errinfo := rfl
@[simp] theorem setOp_result (i : OpIdx) (x : Operator) (s : State) : (setOp i x s).result = s.result := rfl
@[simp] theorem setOp_fs (i : OpIdx) (x : Operator) (s : State) : (setOp i x s).fs = s.fs := rfl
@[simp] theorem setOp_blockSize (i : OpIdx) (x : Operator) (s : State) : (setOp i x s).blockSize = s.blockSize := rfl
@[simp] theorem setOp_noteHz (i : OpIdx) (x : Operator) (s : State) : (setOp i x s).noteHz = s.noteHz := rfl
@[simp] theorem setOp_vstate (i : OpIdx) (x : Operator) (s : State) : (setOp i x s).vstate = s.vstate := rfl
@[simp] theorem setOp_mw (i : OpIdx) (x : Operator) (s : State) : (setOp i x s).mw = s.mw := rfl
@[simp] theorem setOp_stage (i : OpIdx) (x : Operator) (s : State) : (setOp i x s).stage = s.stage := rfl
@[simp] theorem setOp_act (i : OpIdx) (x : Operator) (s : State) : (setOp i x s).act = s.act := rfl
@[simp] theorem setOp_opout (i : OpIdx) (x : Operator) (s : State) : (setOp i x s).opout = s.opout := rfl
@[simp] theorem setOp_env (i : OpIdx) (x : Operator) (s : State) : (setOp i x s).env = s.env := rfl
@[simp] theorem setOp_lph (i : OpIdx) (x : Operator) (s : State) : (setOp i x s).lph = s.lph := rfl
@[simp] theorem setOp_outbuf (i : OpIdx) (x : Operator) (s : State) : (setOp i x s).outbuf = s.outbuf := rfl
@[simp] theorem setOp_requests (i : OpIdx) (x : Operator) (s : State) : (setOp i x s).requests = s.requests := rfl
@[simp] theorem setOp_rdata (i : OpIdx) (x : Operator) (s : State) : (setOp i x s).rdata = s.rdata := rfl
@[simp] theorem setOp_seq (i : OpIdx) (x : Operator) (s : State) : (setOp i x s).seq = s.seq := rfl
@[simp] theorem setOp_draws (i : OpIdx) (x : Operator) (s : State) : (setOp i x s).draws = s.draws := rfl
@[simp] theorem setOp_epoch (i : OpIdx) (x : Operator) (s : State) : (setOp i x s).epoch = s.epoch := rfl

/-! setEnv changes env only. -/

@[simp] theorem setEnv_arg0 (e : EnvIdx) (x : Envelope) (s : State) : (setEnv e x s).arg0 = s.arg0 := rfl
@[simp] theorem setEnv_arg1 (e : EnvIdx) (x : Envelope) (s : State) : (setEnv e x s).arg1 = s.arg1 := rfl
@[simp] theorem setEnv_arg2 (e : EnvIdx) (x : Envelope) (s : State) : (setEnv e x s).arg2 = s.arg2 := rfl
@[simp] theorem setEnv_prepared (e : EnvIdx) (x : Envelope) (s : State) : (setEnv e x s).prepared = s.prepared := rfl
@[simp] theorem setEnv_done (e : EnvIdx) (x : Envelope) (s : State) : (setEnv e x s).done = s.done := rfl
@[simp] theorem setEnv_seqErr (e : EnvIdx) (x : Envelope) (s : State) : (setEnv e x s).seqErr = s.seqErr := rfl
@[simp] theorem setEnv_cfgErr (e : EnvIdx) (x : Envelope) (s : State) : (setEnv e x s).cfgErr = s.cfgErr := rfl
@[simp] theorem setEnv_argErr (e : EnvIdx) (x : Envelope) (s : State) : (setEnv e x s).argErr = s.argErr := rfl
@[simp] theorem setEnv_cmdErr (e : EnvIdx) (x : Envelope) (s : State) : (setEnv e x s).cmdErr = s.cmdErr := rfl
@[simp] theorem setEnv_errinfo (e : EnvIdx) (x : Envelope) (s : State) : (setEnv e x s).errinfo = s.errinfo := rfl
@[simp] theorem setEnv_result (e : EnvIdx) (x : Envelope) (s : State) : (setEnv e x s).result = s.result := rfl
@[simp] theorem setEnv_fs (e : EnvIdx) (x : Envelope) (s : State) : (setEnv e x s).fs = s.fs := rfl
@[simp] theorem setEnv_blockSize (e : EnvIdx) (x : Envelope) (s : State) : (setEnv e x s).blockSize = s.blockSize := rfl
@[simp] theorem setEnv_noteHz (e : EnvIdx) (x : Envelope) (s : State) : (setEnv e x s).noteHz = s.noteHz := rfl
@[simp] theorem setEnv_vstate (e : EnvIdx) (x : Envelope) (s : State) : (setEnv e x s).vstate = s.vstate := rfl
@[simp] theorem setEnv_mw (e : EnvIdx) (x : Envelope) (s : State) : (setEnv e x s).mw = s.mw := rfl
@[simp] theorem setEnv_stage (e : EnvIdx) (x : Envelope) (s : State) : (setEnv e x s).stage = s.stage := rfl
@[simp] theorem setEnv_act (e : EnvIdx) (x : Envelope) (s : State) : (setEnv e x s).act = s.act := rfl
@[simp] theorem setEnv_opout (e : EnvIdx) (x : Envelope) (s : State) : (setEnv e x s).opout = s.opout := rfl
@[simp] theorem setEnv_op (e : EnvIdx) (x : Envelope) (s : State) : (setEnv e x s).op = s.op := rfl
@[simp] theorem setEnv_lph (e : EnvIdx) (x : Envelope) (s : State) : (setEnv e x s).lph = s.lph := rfl
@[simp] theorem setEnv_outbuf (e : EnvIdx) (x : Envelope) (s : State) : (setEnv e x s).outbuf = s.outbuf := rfl
@[simp] theorem setEnv_requests (e : EnvIdx) (x : Envelope) (s : State) : (setEnv e x s).requests = s.requests := rfl
@[simp] theorem setEnv_rdata (e : EnvIdx) (x : Envelope) (s : State) : (setEnv e x s).rdata = s.rdata := rfl
@[simp] theorem setEnv_seq (e : EnvIdx) (x : Envelope) (s : State) : (setEnv e x s).seq = s.seq := rfl
@[simp] theorem setEnv_draws (e : EnvIdx) (x : Envelope) (s : State) : (setEnv e x s).draws = s.draws := rfl
@[simp] theorem setEnv_epoch (e : EnvIdx) (x : Envelope) (s : State) : (setEnv e x s).epoch = s.epoch := rfl

/-! setLph changes lph only. -/

@[simp] theorem setLph_arg0 (k : LfoIdx) (x : F32) (s : State) : (setLph k x s).arg0 = s.arg0 := rfl
@[simp] theorem setLph_arg1 (k : LfoIdx) (x : F32) (s : State) : (setLph k x s).arg1 = s.arg1 := rfl
@[simp] theorem setLph_arg2 (k : LfoIdx) (x : F32) (s : State) : (setLph k x s).arg2 = s.arg2 := rfl
@[simp] theorem setLph_prepared (k : LfoIdx) (x : F32) (s : State) : (setLph k x s).prepared = s.prepared := rfl
@[simp] theorem setLph_done (k : LfoIdx) (x : F32) (s : State) : (setLph k x s).done = s.done := rfl
@[simp] theorem setLph_seqErr (k : LfoIdx) (x : F32) (s : State) : (setLph k x s).seqErr = s.seqErr := rfl
@[simp] theorem setLph_cfgErr (k : LfoIdx) (x : F32) (s : State) : (setLph k x s).cfgErr = s.cfgErr := rfl
@[simp] theorem setLph_argErr (k : LfoIdx) (x : F32) (s : State) : (setLph k x s).argErr = s.argErr := rfl
@[simp] theorem setLph_cmdErr (k : LfoIdx) (x : F32) (s : State) : (setLph k x s).cmdErr = s.cmdErr := rfl
@[simp] theorem setLph_errinfo (k : LfoIdx) (x : F32) (s : State) : (setLph k x s).errinfo = s.errinfo := rfl
@[simp] theorem setLph_result (k : LfoIdx) (x : F32) (s : State) : (setLph k x s).result = s.result := rfl
@[simp] theorem setLph_fs (k : LfoIdx) (x : F32) (s : State) : (setLph k x s).fs = s.fs := rfl
@[simp] theorem setLph_blockSize (k : LfoIdx) (x : F32) (s : State) : (setLph k x s).blockSize = s.blockSize := rfl
@[simp] theorem setLph_noteHz (k : LfoIdx) (x : F32) (s : State) : (setLph k x s).noteHz = s.noteHz := rfl
@[simp] theorem setLph_vstate (k : LfoIdx) (x : F32) (s : State) : (setLph k x s).vstate = s.vstate := rfl
@[simp] theorem setLph_mw (k : LfoIdx) (x : F32) (s : State) : (setLph k x s).mw = s.mw := rfl
@[simp] theorem setLph_stage (k : LfoIdx) (x : F32) (s : State) : (setLph k x s).stage = s.stage := rfl
@[simp] theorem setLph_act (k : LfoIdx) (x : F32) (s : State) : (setLph k x s).act = s.act := rfl
@[simp] theorem setLph_opout (k : LfoIdx) (x : F32) (s : State) : (setLph k x s).opout = s.opout := rfl
@[simp] theorem setLph_op (k : LfoIdx) (x : F32) (s : State) : (setLph k x s).op = s.op := rfl
@[simp] theorem setLph_env (k : LfoIdx) (x : F32) (s : State) : (setLph k x s).env = s.env := rfl
@[simp] theorem setLph_outbuf (k : LfoIdx) (x : F32) (s : State) : (setLph k x s).outbuf = s.outbuf := rfl
@[simp] theorem setLph_requests (k : LfoIdx) (x : F32) (s : State) : (setLph k x s).requests = s.requests := rfl
@[simp] theorem setLph_rdata (k : LfoIdx) (x : F32) (s : State) : (setLph k x s).rdata = s.rdata := rfl
@[simp] theorem setLph_seq (k : LfoIdx) (x : F32) (s : State) : (setLph k x s).seq = s.seq := rfl
@[simp] theorem setLph_draws (k : LfoIdx) (x : F32) (s : State) : (setLph k x s).draws = s.draws := rfl
@[simp] theorem setLph_epoch (k : LfoIdx) (x : F32) (s : State) : (setLph k x s).epoch = s.epoch := rfl

/-! setOpout changes opout only. -/

@[simp] theorem setOpout_arg0 (i : OpIdx) (x : F32) (s : State) : (setOpout i x s).arg0 = s.arg0 := rfl
@[simp] theorem setOpout_arg1 (i : OpIdx) (x : F32) (s : State) : (setOpout i x s).arg1 = s.arg1 := rfl
@[simp] theorem setOpout_arg2 (i : OpIdx) (x : F32) (s : State) : (setOpout i x s).arg2 = s.arg2 := rfl
@[simp] theorem setOpout_prepared (i : OpIdx) (x : F32) (s : State) : (setOpout i x s).prepared = s.prepared := rfl
@[simp] theorem setOpout_done (i : OpIdx) (x : F32) (s : State) : (setOpout i x s).done = s.done := rfl
@[simp] theorem setOpout_seqErr (i : OpIdx) (x : F32) (s : State) : (setOpout i x s).seqErr = s.seqErr := rfl
@[simp] theorem setOpout_cfgErr (i : OpIdx) (x : F32) (s : State) : (setOpout i x s).cfgErr = s.cfgErr := rfl
@[simp] theorem setOpout_argErr (i : OpIdx) (x : F32) (s : State) : (setOpout i x s).argErr = s.argErr := rfl
@[simp] theorem setOpout_cmdErr (i : OpIdx) (x : F32) (s : State) : (setOpout i x s).cmdErr = s.cmdErr := rfl
@[simp] theorem setOpout_errinfo (i : OpIdx) (x : F32) (s : State) : (setOpout i x s).errinfo = s.errinfo := rfl
@[simp] theorem setOpout_result (i : OpIdx) (x : F32) (s : State) : (setOpout i x s).result = s.result := rfl
@[simp] theorem setOpout_fs (i : OpIdx) (x : F32) (s : State) : (setOpout i x s).fs = s.fs := rfl
@[simp] theorem setOpout_blockSize (i : OpIdx) (x : F32) (s : State) : (setOpout i x s).blockSize = s.blockSize := rfl
@[simp] theorem setOpout_noteHz (i : OpIdx) (x : F32) (s : State) : (setOpout i x s).noteHz = s.noteHz := rfl
@[simp] theorem setOpout_vstate (i : OpIdx) (x : F32) (s : State) : (setOpout i x s).vstate = s.vstate := rfl
@[simp] theorem setOpout_mw (i : OpIdx) (x : F32) (s : State) : (setOpout i x s).mw = s.mw := rfl
@[simp] theorem setOpout_stage (i : OpIdx) (x : F32) (s : State) : (setOpout i x s).stage = s.stage := rfl
@[simp] theorem setOpout_act (i : OpIdx) (x : F32) (s : State) : (setOpout i x s).act = s.act := rfl
@[simp] theorem setOpout_op (i : OpIdx) (x : F32) (s : State) : (setOpout i x s).op = s.op := rfl
@[simp] theorem setOpout_env (i : OpIdx) (x : F32) (s : State) : (setOpout i x s).env = s.env := rfl
@[simp] theorem setOpout_lph (i : OpIdx) (x : F32) (s : State) : (setOpout i x s).lph = s.lph := rfl
@[simp] theorem setOpout_outbuf (i : OpIdx) (x : F32) (s : State) : (setOpout i x s).outbuf = s.outbuf := rfl
@[simp] theorem setOpout_requests (i : OpIdx) (x : F32) (s : State) : (setOpout i x s).requests = s.requests := rfl
@[simp] theorem setOpout_rdata (i : OpIdx) (x : F32) (s : State) : (setOpout i x s).rdata = s.rdata := rfl
@[simp] theorem setOpout_seq (i : OpIdx) (x : F32) (s : State) : (setOpout i x s).seq = s.seq := rfl
@[simp] theorem setOpout_draws (i : OpIdx) (x : F32) (s : State) : (setOpout i x s).draws = s.draws := rfl
@[simp] theorem setOpout_epoch (i : OpIdx) (x : F32) (s : State) : (setOpout i x s).epoch = s.epoch := rfl

/-! setSeq changes seq only. -/

@[simp] theorem setSeq_arg0 (q : Seq) (s : State) : (setSeq q s).arg0 = s.arg0 := rfl
@[simp] theorem setSeq_arg1 (q : Seq) (s : State) : (setSeq q s).arg1 = s.arg1 := rfl
@[simp] theorem setSeq_arg2 (q : Seq) (s : State) : (setSeq q s).arg2 = s.arg2 := rfl
@[simp] theorem setSeq_prepared (q : Seq) (s : State) : (setSeq q s).prepared = s.prepared := rfl
@[simp] theorem setSeq_done (q : Seq) (s : State) : (setSeq q s).done = s.done := rfl
@[simp] theorem setSeq_seqErr (q : Seq) (s : State) : (setSeq q s).seqErr = s.seqErr := rfl
@[simp] theorem setSeq_cfgErr (q : Seq) (s : State) : (setSeq q s).cfgErr = s.cfgErr := rfl
@[simp] theorem setSeq_argErr (q : Seq) (s : State) : (setSeq q s).argErr = s.argErr := rfl
@[simp] theorem setSeq_cmdErr (q : Seq) (s : State) : (setSeq q s).cmdErr = s.cmdErr := rfl
@[simp] theorem setSeq_errinfo (q : Seq) (s : State) : (setSeq q s).errinfo = s.errinfo := rfl
@[simp] theorem setSeq_result (q : Seq) (s : State) : (setSeq q s).result = s.result := rfl
@[simp] theorem setSeq_fs (q : Seq) (s : State) : (setSeq q s).fs = s.fs := rfl
@[simp] theorem setSeq_blockSize (q : Seq) (s : State) : (setSeq q s).blockSize = s.blockSize := rfl
@[simp] theorem setSeq_noteHz (q : Seq) (s : State) : (setSeq q s).noteHz = s.noteHz := rfl
@[simp] theorem setSeq_vstate (q : Seq) (s : State) : (setSeq q s).vstate = s.vstate := rfl
@[simp] theorem setSeq_mw (q : Seq) (s : State) : (setSeq q s).mw = s.mw := rfl
@[simp] theorem setSeq_stage (q : Seq) (s : State) : (setSeq q s).stage = s.stage := rfl
@[simp] theorem setSeq_act (q : Seq) (s : State) : (setSeq q s).act = s.act := rfl
@[simp] theorem setSeq_opout (q : Seq) (s : State) : (setSeq q s).opout = s.opout := rfl
@[simp] theorem setSeq_op (q : Seq) (s : State) : (setSeq q s).op = s.op := rfl
@[simp] theorem setSeq_env (q : Seq) (s : State) : (setSeq q s).env = s.env := rfl
@[simp] theorem setSeq_lph (q : Seq) (s : State) : (setSeq q s).lph = s.lph := rfl
@[simp] theorem setSeq_outbuf (q : Seq) (s : State) : (setSeq q s).outbuf = s.outbuf := rfl
@[simp] theorem setSeq_requests (q : Seq) (s : State) : (setSeq q s).requests = s.requests := rfl
@[simp] theorem setSeq_rdata (q : Seq) (s : State) : (setSeq q s).rdata = s.rdata := rfl
@[simp] theorem setSeq_draws (q : Seq) (s : State) : (setSeq q s).draws = s.draws := rfl
@[simp] theorem setSeq_epoch (q : Seq) (s : State) : (setSeq q s).epoch = s.epoch := rfl

/-! drew changes draws only. -/

@[simp] theorem drew_arg0 (n : Nat) (s : State) : (drew n s).arg0 = s.arg0 := rfl
@[simp] theorem drew_arg1 (n : Nat) (s : State) : (drew n s).arg1 = s.arg1 := rfl
@[simp] theorem drew_arg2 (n : Nat) (s : State) : (drew n s).arg2 = s.arg2 := rfl
@[simp] theorem drew_prepared (n : Nat) (s : State) : (drew n s).prepared = s.prepared := rfl
@[simp] theorem drew_done (n : Nat) (s : State) : (drew n s).done = s.done := rfl
@[simp] theorem drew_seqErr (n : Nat) (s : State) : (drew n s).seqErr = s.seqErr := rfl
@[simp] theorem drew_cfgErr (n : Nat) (s : State) : (drew n s).cfgErr = s.cfgErr := rfl
@[simp] theorem drew_argErr (n : Nat) (s : State) : (drew n s).argErr = s.argErr := rfl
@[simp] theorem drew_cmdErr (n : Nat) (s : State) : (drew n s).cmdErr = s.cmdErr := rfl
@[simp] theorem drew_errinfo (n : Nat) (s : State) : (drew n s).errinfo = s.errinfo := rfl
@[simp] theorem drew_result (n : Nat) (s : State) : (drew n s).result = s.result := rfl
@[simp] theorem drew_fs (n : Nat) (s : State) : (drew n s).fs = s.fs := rfl
@[simp] theorem drew_blockSize (n : Nat) (s : State) : (drew n s).blockSize = s.blockSize := rfl
@[simp] theorem drew_noteHz (n : Nat) (s : State) : (drew n s).noteHz = s.noteHz := rfl
@[simp] theorem drew_vstate (n : Nat) (s : State) : (drew n s).vstate = s.vstate := rfl
@[simp] theorem drew_mw (n : Nat) (s : State) : (drew n s).mw = s.mw := rfl
@[simp] theorem drew_stage (n : Nat) (s : State) : (drew n s).stage = s.stage := rfl
@[simp] theorem drew_act (n : Nat) (s : State) : (drew n s).act = s.act := rfl
@[simp] theorem drew_opout (n : Nat) (s : State) : (drew n s).opout = s.opout := rfl
@[simp] theorem drew_op (n : Nat) (s : State) : (drew n s).op = s.op := rfl
@[simp] theorem drew_env (n : Nat) (s : State) : (drew n s).env = s.env := rfl
@[simp] theorem drew_lph (n : Nat) (s : State) : (drew n s).lph = s.lph := rfl
@[simp] theorem drew_outbuf (n : Nat) (s : State) : (drew n s).outbuf = s.outbuf := rfl
@[simp] theorem drew_requests (n : Nat) (s : State) : (drew n s).requests = s.requests := rfl
@[simp] theorem drew_rdata (n : Nat) (s : State) : (drew n s).rdata = s.rdata := rfl
@[simp] theorem drew_seq (n : Nat) (s : State) : (drew n s).seq = s.seq := rfl
@[simp] theorem drew_epoch (n : Nat) (s : State) : (drew n s).epoch = s.epoch := rfl

/-! The field each update writes. -/

@[simp] theorem setSeq_seq (q : Seq) (s : State) : (setSeq q s).seq = q := rfl
@[simp] theorem drew_draws (n : Nat) (s : State) : (drew n s).draws = s.draws + n := rfl

@[simp] theorem setOp_op_self (i : OpIdx) (x : Operator) (s : State) : (setOp i x s).op[i.val] = x := by
  simp [setOp]

theorem setOp_op_ne {i j : OpIdx} (h : i ≠ j) (x : Operator) (s : State) : (setOp i x s).op[j] = s.op[j] := by
  have : i.val ≠ j.val := fun e => h (Fin.ext e)
  simp [setOp, Vector.getElem_set_ne, this]

theorem setOp_op (i j : OpIdx) (x : Operator) (s : State) :
    (setOp i x s).op[j] = if i = j then x else s.op[j] := by
  by_cases h : i = j
  · subst h; simp
  · rw [setOp_op_ne h, if_neg h]

@[simp] theorem setEnv_env_self (e : EnvIdx) (x : Envelope) (s : State) : (setEnv e x s).env[e.val] = x := by
  simp [setEnv]

theorem setEnv_env_ne {e f : EnvIdx} (h : e ≠ f) (x : Envelope) (s : State) : (setEnv e x s).env[f] = s.env[f] := by
  have : e.val ≠ f.val := fun e' => h (Fin.ext e')
  simp [setEnv, Vector.getElem_set_ne, this]

theorem setEnv_env (e f : EnvIdx) (x : Envelope) (s : State) :
    (setEnv e x s).env[f] = if e = f then x else s.env[f] := by
  by_cases h : e = f
  · subst h; simp
  · rw [setEnv_env_ne h, if_neg h]

theorem setLph_lph (k l : LfoIdx) (x : F32) (s : State) :
    (setLph k x s).lph[l] = if k = l then x else s.lph[l] := by
  by_cases h : k = l
  · subst h; simp [setLph]
  · have : k.val ≠ l.val := fun e => h (Fin.ext e)
    simp [setLph, Vector.getElem_set_ne, this, h]

theorem setOpout_opout (i j : OpIdx) (x : F32) (s : State) :
    (setOpout i x s).opout[j] = if i = j then x else s.opout[j] := by
  by_cases h : i = j
  · subst h; simp [setOpout]
  · have : i.val ≠ j.val := fun e => h (Fin.ext e)
    simp [setOpout, Vector.getElem_set_ne, this, h]

/-! Frames compose. -/

theorem seqFrame_refl (s : State) : seqFrame s s := rfl

theorem seqFrame_trans {s t u : State} (h : seqFrame s t) (k : seqFrame t u) : seqFrame s u := by
  unfold seqFrame at *; rw [k, h]

theorem voiceFrame_refl (s : State) : voiceFrame s s := rfl

theorem voiceFrame_trans {s t u : State} (h : voiceFrame s t) (k : voiceFrame t u) : voiceFrame s u := by
  unfold voiceFrame at *; rw [k, h]

theorem seqFrame_voiceFrame {s t : State} (h : seqFrame s t) : voiceFrame s t := by
  unfold seqFrame at h; unfold voiceFrame; rw [h]

theorem renderWrites_refl (s : State) : renderWrites s s := rfl

theorem renderWrites_trans {s t u : State} (h : renderWrites s t) (k : renderWrites t u) : renderWrites s u := by
  unfold renderWrites at *; rw [k, h]

theorem voiceFrame_renderWrites {s t : State} (h : voiceFrame s t) : renderWrites s t := by
  unfold voiceFrame at h; unfold renderWrites; rw [h]

end Sys2Proof.Machine
end

