-- ==== Sys2Proof/Laws/Ram.lean ====
section
/-! SUPPORT. The RAM operations: a read after a write, and the canonical form kept by every operation on memory. -/

namespace Sys2Proof.Machine

/-! Reads after writes. -/

@[simp] theorem ramRead_insert_self (a : Nat) (v : Word) (m : Ram) : ramRead a (ramInsert a v m) = some v := by
  induction m with
  | nil => simp [ramInsert, ramRead]
  | cons c m ih =>
    obtain ⟨b, u⟩ := c
    by_cases h1 : a < b
    · simp [ramInsert, h1, ramRead]
    · by_cases h2 : a = b
      · subst h2; simp [ramInsert, ramRead]
      · simp [ramInsert, h1, h2, ramRead, ih]

theorem ramRead_insert_ne {a b : Nat} (h : b ≠ a) (v : Word) (m : Ram) :
    ramRead b (ramInsert a v m) = ramRead b m := by
  induction m with
  | nil => simp [ramInsert, ramRead, h]
  | cons c m ih =>
    obtain ⟨x, u⟩ := c
    by_cases h1 : a < x
    · simp [ramInsert, h1, ramRead, h]
    · by_cases h2 : a = x
      · subst h2; simp [ramInsert, ramRead, h]
      · simp [ramInsert, h1, h2, ramRead, ih]

theorem ramRead_erase_ne {a b : Nat} (h : b ≠ a) (m : Ram) : ramRead b (ramErase a m) = ramRead b m := by
  induction m with
  | nil => rfl
  | cons c m ih =>
    obtain ⟨x, u⟩ := c
    by_cases h2 : a = x
    · subst h2; simp [ramErase, ramRead, h]
    · simp [ramErase, h2, ramRead, ih]

theorem ramRising_mono {lo hi : Nat} (h : lo ≤ hi) {m : Ram} (hm : ramRising hi m = true) : ramRising lo m = true := by
  cases m with
  | nil => rfl
  | cons c m => simp only [ramRising, Bool.and_eq_true, decide_eq_true_eq] at *; exact ⟨le_trans h hm.1, hm.2⟩

theorem ramRead_below {lo a : Nat} (h : a < lo) {m : Ram} (hm : ramRising lo m = true) : ramRead a m = none := by
  induction m generalizing lo with
  | nil => rfl
  | cons c m ih =>
    simp only [ramRising, Bool.and_eq_true, decide_eq_true_eq] at hm
    have hne : a ≠ c.1 := by omega
    rw [ramRead, if_neg hne]
    exact ih (lo := c.1 + 1) (by omega) hm.2

theorem ramRead_erase_self {lo : Nat} (a : Nat) {m : Ram} (hm : ramRising lo m = true) :
    ramRead a (ramErase a m) = none := by
  induction m generalizing lo with
  | nil => rfl
  | cons c m ih =>
    obtain ⟨x, u⟩ := c
    simp only [ramRising, Bool.and_eq_true, decide_eq_true_eq] at hm
    by_cases h2 : a = x
    · subst h2; simp [ramErase, ramRead_below (Nat.lt_succ_self a) hm.2]
    · simp [ramErase, h2, ramRead, ih hm.2]

/-! Canonical form. -/

theorem ramRising_insert {lo a : Nat} (v : Word) (h : lo ≤ a) {m : Ram} (hm : ramRising lo m = true) :
    ramRising lo (ramInsert a v m) = true := by
  induction m generalizing lo with
  | nil => simp [ramInsert, ramRising, h]
  | cons c m ih =>
    obtain ⟨b, u⟩ := c
    simp only [ramRising, Bool.and_eq_true, decide_eq_true_eq] at hm
    by_cases h1 : a < b
    · simp [ramInsert, h1, ramRising, h, hm.2]
    · by_cases h2 : a = b
      · subst h2; simp [ramInsert, ramRising, h, hm.2]
      · simp [ramInsert, h1, h2, ramRising, hm.1, ih (lo := b + 1) (by omega) hm.2]

theorem ramRising_erase {lo a : Nat} {m : Ram} (hm : ramRising lo m = true) : ramRising lo (ramErase a m) = true := by
  induction m generalizing lo with
  | nil => rfl
  | cons c m ih =>
    obtain ⟨b, u⟩ := c
    simp only [ramRising, Bool.and_eq_true, decide_eq_true_eq] at hm
    by_cases h2 : a = b
    · subst h2; simpa [ramErase] using ramRising_mono (by omega) hm.2
    · simp [ramErase, h2, ramRising, hm.1, ih hm.2]

theorem all_insert (p : Nat × Word → Bool) (a : Nat) (v : Word) (m : Ram) (h : p (a, v) = true)
    (hm : m.all p = true) : (ramInsert a v m).all p = true := by
  induction m with
  | nil => simp [ramInsert, h]
  | cons c m ih =>
    obtain ⟨b, u⟩ := c
    simp only [List.all_cons, Bool.and_eq_true] at hm
    by_cases h1 : a < b
    · simp only [ramInsert, h1, if_true, List.all_cons, h, hm.1, hm.2, Bool.and_self]
    · by_cases h2 : a = b
      · simp only [ramInsert, h2, lt_irrefl, if_false, if_true, List.all_cons, hm.2, Bool.and_true]; rw [← h2]; exact h
      · simp only [ramInsert, h1, h2, if_false, List.all_cons, hm.1, ih hm.2, Bool.and_self]

theorem all_erase (p : Nat × Word → Bool) (a : Nat) (m : Ram) (hm : m.all p = true) :
    (ramErase a m).all p = true := by
  induction m with
  | nil => rfl
  | cons c m ih =>
    obtain ⟨b, u⟩ := c
    simp only [List.all_cons, Bool.and_eq_true] at hm
    by_cases h2 : a = b
    · simp [ramErase, h2, hm.2]
    · simp only [ramErase, h2, if_false, List.all_cons, hm.1, ih hm.2, Bool.and_self]

/-- OUTBUF of this instance is one run of bus addresses (R81). -/
theorem isOutbuf_iff (a : Nat) : isOutbuf a = true ↔ 0x1000 ≤ a ∧ a < 0x3000 := by
  show decide (0x1000 ≤ a ∧ (a - 0x1000) / 0x1000 < 2 ∧ (a - 0x1000) % 0x1000 < 4096) = true ↔ _
  rw [decide_eq_true_eq]; omega

theorem outbufWf_insert {a : Nat} (v : Word) {m : Ram} (h : isOutbuf a = true) (hm : outbufWf m = true) :
    outbufWf (ramInsert a v m) = true := by
  simp only [outbufWf, Bool.and_eq_true] at *
  exact ⟨ramRising_insert v ((isOutbuf_iff a).mp h).1 hm.1, all_insert _ a v m h hm.2⟩

theorem delayWf_insert {k : DelayIdx} {v : Word} {m : Ram} (h : v ≠ 0) (hm : delayWf m = true) :
    delayWf (ramInsert k.toNat v m) = true := by
  simp only [delayWf, Bool.and_eq_true] at *
  refine ⟨ramRising_insert v (Nat.zero_le _) hm.1, all_insert _ k.toNat v m ?_ hm.2⟩
  simp only [Bool.and_eq_true, decide_eq_true_eq, bne_iff_ne, ne_eq]
  exact ⟨k.isLt, h⟩

theorem delayWf_erase {a : Nat} {m : Ram} (hm : delayWf m = true) : delayWf (ramErase a m) = true := by
  simp only [delayWf, Bool.and_eq_true] at *
  exact ⟨ramRising_erase hm.1, all_erase _ a m hm.2⟩

/-- Memory in canonical form, operator by operator. -/
theorem memoryWf_iff (s : State) :
    memoryWf s = true ↔ outbufWf s.outbuf = true ∧ ∀ i : OpIdx, delayWf s.op[i].dly = true := by
  simp only [memoryWf, Bool.and_eq_true, List.all_eq_true]
  refine and_congr_right fun _ => ⟨fun k i => k _ (by simp), fun k o ho => ?_⟩
  obtain ⟨n, hn, rfl⟩ := List.getElem_of_mem ho
  simpa using k ⟨n, by simpa using hn⟩

theorem memoryWf_reset : memoryWf State.reset = true := by decide

/-- OUTBUF writes keep the canonical form. -/
theorem outbufWrite_memoryWf (a : Nat) (v : Word) {s : State} (h : memoryWf s = true) :
    memoryWf (outbufWrite a v s) = true := by
  rw [memoryWf_iff] at *
  unfold outbufWrite
  split
  · exact ⟨outbufWf_insert v ‹_› h.1, h.2⟩
  · exact h

/-- Replacing an operator's state keeps the canonical form if the new delay RAM has it. -/
theorem setOp_memoryWf (i : OpIdx) (o : Operator) {s : State} (ho : delayWf o.dly = true) (h : memoryWf s = true) :
    memoryWf (setOp i o s) = true := by
  rw [memoryWf_iff] at *
  refine ⟨h.1, fun j => ?_⟩
  rw [setOp_op]; split
  · exact ho
  · exact h.2 j

/-- Delay RAM writes keep the canonical form. -/
theorem delayWrite_memoryWf (i : OpIdx) (k : DelayIdx) (v : F32) {s : State} (h : memoryWf s = true) :
    memoryWf (delayWrite i k v s) = true := by
  unfold delayWrite
  refine setOp_memoryWf i _ ?_ h
  have hi := ((memoryWf_iff s).mp h).2 i
  simp only
  split
  · exact delayWf_erase hi
  · exact delayWf_insert ‹_› hi

/-- What the RAM write inside DWrite leaves to read. -/
theorem ramRead_delayRam (a b : Nat) (v : Word) {m : Ram} (hm : ramRising 0 m = true) :
    (ramRead b (if v = 0 then ramErase a m else ramInsert a v m)).getD 0 = if a = b then v else (ramRead b m).getD 0 := by
  by_cases hab : a = b
  · subst hab
    rw [if_pos rfl]
    split
    · rename_i hv; rw [ramRead_erase_self _ hm, hv]; rfl
    · rw [ramRead_insert_self]; rfl
  · rw [if_neg hab]
    split
    · rw [ramRead_erase_ne (Ne.symm hab)]
    · rw [ramRead_insert_ne (Ne.symm hab)]

/-- What a delay RAM reads after a write (R90): the word written, and every other word as before. -/
theorem delayRead_write (i j : OpIdx) (k l : DelayIdx) (v : F32) {s : State} (h : memoryWf s = true) :
    delayRead j l (delayWrite i k v s) = if i = j ∧ k = l then v else delayRead j l s := by
  have hi := ((memoryWf_iff s).mp h).2 i
  simp only [delayWf, Bool.and_eq_true] at hi
  unfold delayRead delayWrite
  rw [setOp_op]
  by_cases hij : i = j
  · subst hij
    rw [if_pos rfl]
    refine (ramRead_delayRam k.toNat l.toNat v hi.1).trans ?_
    simp only [true_and, BitVec.toNat_inj]
  · simp only [hij, if_false, false_and]

/-- What OUTBUF reads after a write: the word written inside OUTBUF, and every other word as before. -/
theorem outbufRead_write (a b : Nat) (v : Word) (s : State) :
    outbufRead b (outbufWrite a v s) = if b = a ∧ isOutbuf a = true then v else outbufRead b s := by
  unfold outbufWrite
  by_cases h : isOutbuf a = true
  · by_cases hb : b = a
    · subst hb; simp [h, outbufRead]
    · simp [h, hb, outbufRead, ramRead_insert_ne hb]
  · simp [h]

end Sys2Proof.Machine
end

