-- ==== Sys2Proof/Laws/Frames.lean ====
section
/-! SUPPORT. One lemma for each operation of the sequencer that says what it may touch, cited instead of unfolding it;
and the two induction principles for a fold over the operators, envelopes or slots. -/

namespace Sys2Proof.Machine

/-! Folds. -/

/-- A property that every step of a fold keeps holds at its end. -/
theorem foldl_keeps {α : Type} (P : State → Prop) {f : State → α → State} (h : ∀ t a, P t → P (f t a)) (l : List α)
    {s : State} (hs : P s) : P (l.foldl f s) := by
  induction l generalizing s with
  | nil => exact hs
  | cons a l ih => exact ih (h s a hs)

theorem foldl_seqFrame {α : Type} {f : State → α → State} (h : ∀ t a, seqFrame t (f t a)) (l : List α) (s : State) :
    seqFrame s (l.foldl f s) :=
  foldl_keeps (seqFrame s) (fun t a ht => seqFrame_trans ht (h t a)) l (seqFrame_refl s)

theorem foldl_voiceFrame {α : Type} {f : State → α → State} (h : ∀ t a, voiceFrame t (f t a)) (l : List α)
    (s : State) : voiceFrame s (l.foldl f s) :=
  foldl_keeps (voiceFrame s) (fun t a ht => voiceFrame_trans ht (h t a)) l (voiceFrame_refl s)

/-! Operations that change only transient values. -/

theorem setSeq_seqFrame (q : Seq) (s : State) : seqFrame s (setSeq q s) := rfl

theorem drew_setSeq_seqFrame (n : Nat) (q : Seq) (s : State) : seqFrame s (drew n (setSeq q s)) := rfl

theorem setOut_seqFrame (x : F32) (s : State) : seqFrame s (setOut x s) := rfl

theorem latchGain_seqFrame (i : OpIdx) (s : State) : seqFrame s (latchGain i s) := rfl

theorem latchRatio_seqFrame (i : OpIdx) (s : State) : seqFrame s (latchRatio i s) := rfl

theorem latchCtx1_seqFrame (i : OpIdx) (s : State) : seqFrame s (latchCtx1 i s) := rfl

theorem latchCell_seqFrame (i j : OpIdx) (s : State) : seqFrame s (latchCell i j s) := rfl

theorem delayFetch_seqFrame (i : OpIdx) (k : DelayIdx) (s : State) : seqFrame s (delayFetch i k s) := rfl

theorem passStep_seqFrame (s : State) : seqFrame s (passStep s) := rfl

theorem waveStep_seqFrame (k : LfoIdx) (s : State) : seqFrame s (waveStep k s) := by
  unfold waveStep; split <;> rfl

theorem srcStep_seqFrame (j : SlotIdx) (s : State) : seqFrame s (srcStep j s) := by
  unfold srcStep; split <;> rfl

theorem accumulate_seqFrame (site : DestSite) (d : Dest) (s : State) : seqFrame s (accumulate site d s) := rfl

theorem routeSlot_seqFrame (j : SlotIdx) (s : State) : seqFrame s (routeSlot j s) := by
  unfold routeSlot
  simp only
  split
  · rfl
  · exact seqFrame_trans (srcStep_seqFrame j s) (accumulate_seqFrame _ _ _)

theorem routeDirect_seqFrame (k : LfoIdx) (s : State) : seqFrame s (routeDirect k s) := by
  unfold routeDirect; simp only; split <;> rfl

theorem clearOff_seqFrame (s : State) : seqFrame s (clearOff s) := rfl

/-- ROUTE has no state of its own (42_router.md). -/
theorem routeStep_seqFrame (s : State) : seqFrame s (routeStep s) :=
  seqFrame_trans (seqFrame_trans (seqFrame_trans (clearOff_seqFrame s)
    (foldl_seqFrame (fun t j => routeSlot_seqFrame j t) allSlots _)) (routeDirect_seqFrame 0 _))
    (routeDirect_seqFrame 1 _)

theorem envsrcStep_seqFrame (i : OpIdx) (s : State) : seqFrame s (envsrcStep i s) := by
  unfold envsrcStep; split <;> rfl

theorem pmTerm_seqFrame (i j : OpIdx) (s : State) : seqFrame s (pmTerm i j s) :=
  seqFrame_trans (latchCell_seqFrame i j s) (drew_setSeq_seqFrame 2 _ _)

theorem pmStep_seqFrame (i : OpIdx) (s : State) : seqFrame s (pmStep i s) :=
  seqFrame_trans (setSeq_seqFrame _ s) (foldl_seqFrame (fun t j => pmTerm_seqFrame i j t) allOps _)

theorem modulateStep_seqFrame (i : OpIdx) (s : State) : seqFrame s (modulateStep i s) :=
  seqFrame_trans (seqFrame_trans (seqFrame_trans (latchGain_seqFrame i s) (latchRatio_seqFrame i _))
    (latchCtx1_seqFrame i _)) (drew_setSeq_seqFrame 1 _ _)

theorem parallelStep_seqFrame (i : OpIdx) (s : State) : seqFrame s (parallelStep i s) := rfl

theorem serialStep_seqFrame (s : State) : seqFrame s (serialStep s) := rfl

theorem clearPaths_seqFrame (s : State) : seqFrame s (clearPaths s) := rfl

theorem headroomStep_seqFrame (s : State) : seqFrame s (headroomStep s) := rfl

/-! Operations that change only what a sample may change (R323). -/

theorem drew_setOut_setOp_voiceFrame (n : Nat) (x : F32) (i : OpIdx) (o : Operator) (s : State) :
    voiceFrame s (drew n (setOut x (setOp i o s))) := rfl

theorem delayWrite_voiceFrame (i : OpIdx) (k : DelayIdx) (v : F32) (s : State) : voiceFrame s (delayWrite i k v s) :=
  rfl

theorem oscStep_voiceFrame (i : OpIdx) (s : State) : voiceFrame s (oscStep i s) :=
  drew_setOut_setOp_voiceFrame 14 _ i _ s

theorem lpfStep_voiceFrame (i : OpIdx) (s : State) : voiceFrame s (lpfStep i s) :=
  drew_setOut_setOp_voiceFrame 26 _ i _ s

theorem combStep_voiceFrame (i : OpIdx) (s : State) : voiceFrame s (combStep i s) :=
  voiceFrame_trans (voiceFrame_trans (seqFrame_voiceFrame (delayFetch_seqFrame i _ s)) (delayWrite_voiceFrame i _ _ _))
    (drew_setOut_setOp_voiceFrame 6 _ i _ _)

theorem processStep_voiceFrame (i : OpIdx) (s : State) : voiceFrame s (processStep i s) := by
  unfold processStep; split
  · exact oscStep_voiceFrame i s
  · exact lpfStep_voiceFrame i s
  · exact combStep_voiceFrame i s
  · exact seqFrame_voiceFrame (passStep_seqFrame s)

theorem resetStep_voiceFrame (i : OpIdx) (s : State) : voiceFrame s (resetStep i s) := rfl

theorem envStep_voiceFrame (e : EnvIdx) (s : State) : voiceFrame s (envStep e s) := by
  unfold envStep; split <;> rfl

theorem whenStage_voiceFrame (st : EStage) (e : EnvIdx) {f : State → State} (h : ∀ s, voiceFrame s (f s)) (s : State) :
    voiceFrame s (whenStage st e f s) := by
  unfold whenStage; split
  · exact h s
  · exact voiceFrame_refl s

theorem drew_setSeq_setLph_voiceFrame (n : Nat) (q : Seq) (k : LfoIdx) (x : F32) (s : State) :
    voiceFrame s (drew n (setSeq q (setLph k x s))) := rfl

theorem lfoFinish_voiceFrame (k : LfoIdx) (s : State) : voiceFrame s (lfoFinish k s) :=
  drew_setSeq_setLph_voiceFrame 10 _ k _ s

theorem lfoStep_voiceFrame (k : LfoIdx) (s : State) : voiceFrame s (lfoStep k s) :=
  voiceFrame_trans (seqFrame_voiceFrame (waveStep_seqFrame k s)) (lfoFinish_voiceFrame k _)

theorem voiceControl_voiceFrame (s : State) : voiceFrame s (voiceControl s) :=
  voiceFrame_trans (voiceFrame_trans (voiceFrame_trans (voiceFrame_trans (lfoStep_voiceFrame 0 s)
    (lfoStep_voiceFrame 1 _)) (seqFrame_voiceFrame (routeStep_seqFrame _))) (envStep_voiceFrame 0 _))
    (envStep_voiceFrame 1 _)

theorem storeOut_voiceFrame (i : OpIdx) (s : State) : voiceFrame s (storeOut i s) := rfl

theorem voiceOperator_voiceFrame (i : OpIdx) (s : State) : voiceFrame s (voiceOperator i s) := by
  refine voiceFrame_trans (voiceFrame_trans (voiceFrame_trans (seqFrame_voiceFrame ?_) (processStep_voiceFrame i _))
    (storeOut_voiceFrame i _)) (seqFrame_voiceFrame (seqFrame_trans (parallelStep_seqFrame i _) (serialStep_seqFrame _)))
  exact seqFrame_trans (seqFrame_trans (seqFrame_trans (setSeq_seqFrame _ s) (pmStep_seqFrame i _))
    (envsrcStep_seqFrame i _)) (modulateStep_seqFrame i _)

/-- VOICE.SAMPLE changes only what R323 lets change. -/
theorem voiceSampleStep_voiceFrame (s : State) : voiceFrame s (voiceSampleStep s) :=
  voiceFrame_trans (voiceFrame_trans (voiceFrame_trans (voiceControl_voiceFrame s)
    (seqFrame_voiceFrame (clearPaths_seqFrame _))) (foldl_voiceFrame (fun t i => voiceOperator_voiceFrame i t) allOps _))
    (seqFrame_voiceFrame (headroomStep_seqFrame _))

/-! RENDER (R345). -/

theorem outbufWrite_frame (a : Nat) (v : Word) (s : State) :
    outbufWrite a v s = { s with outbuf := (outbufWrite a v s).outbuf } := by
  unfold outbufWrite; split <;> rfl

theorem outAddChannel_renderWrites (c : Nat) (s : State) : renderWrites s (outAddChannel c s) := by
  unfold outAddChannel renderWrites
  simp only
  rw [outbufWrite_frame]
  rfl

theorem outAddStep_renderWrites (s : State) : renderWrites s (outAddStep s) :=
  foldl_keeps (renderWrites s) (fun t c ht => renderWrites_trans ht (outAddChannel_renderWrites c t)) _
    (renderWrites_refl s)

theorem completeStep_renderWrites (s : State) : renderWrites s (completeStep s) := by
  unfold completeStep; split <;> rfl

theorem renderFrame_renderWrites (n : Nat) (s : State) : renderWrites s (renderFrame n s) :=
  renderWrites_trans (renderWrites_trans (renderWrites_trans (voiceFrame_renderWrites (seqFrame_voiceFrame
    (setSeq_seqFrame _ s))) (voiceFrame_renderWrites (voiceSampleStep_voiceFrame _))) (outAddStep_renderWrites _))
    (completeStep_renderWrites _)

/-- The frames of a RENDER change only what R345 lets RENDER write. -/
theorem renderFrames_renderWrites (count n : Nat) (s : State) : renderWrites s (renderFrames count n s) := by
  induction count generalizing n s with
  | zero => exact renderWrites_refl s
  | succ k ih =>
    unfold renderFrames
    split
    · exact renderWrites_trans (renderFrame_renderWrites n s) (ih _ _)
    · exact renderWrites_refl s

/-! Refusals (R384). -/

/-- What a refusal does: its flag is set, ERRINFO is loaded if it was 0, nothing else changes. -/
theorem takeRefusal_refusalFrame (flag : ErrFlag) (cause : BitVec 8) (info : BitVec 24) (s : State) :
    refusalFrame s (takeRefusal flag cause info s) := by
  cases flag <;> rfl

theorem takeRefusal_errinfo (flag : ErrFlag) (cause : BitVec 8) (info : BitVec 24) (s : State) :
    (takeRefusal flag cause info s).errinfo = if s.errinfo = 0 then info ++ cause else s.errinfo := by
  cases flag <;> rfl

/-! Memory kept. -/

theorem memoryKept_refl (s : State) : memoryKept s s := ⟨fun _ => rfl, fun _ _ => rfl⟩

theorem seqFrame_memoryKept {s t : State} (h : seqFrame s t) : memoryKept s t := by
  unfold seqFrame at h; rw [h]; exact ⟨fun _ => rfl, fun _ _ => rfl⟩

theorem refusalFrame_memoryKept {s t : State} (h : refusalFrame s t) : memoryKept s t := by
  unfold refusalFrame at h; rw [h]; exact ⟨fun _ => rfl, fun _ _ => rfl⟩

theorem seqFrame_memoryWf {s t : State} (h : seqFrame s t) (hs : memoryWf s = true) : memoryWf t = true := by
  unfold seqFrame at h; rw [h]; exact hs

/-- OP.RESET keeps memory in canonical form. -/
theorem resetStep_memoryWf (i : OpIdx) {s : State} (h : memoryWf s = true) : memoryWf (resetStep i s) = true :=
  setOp_memoryWf i Operator.zero (by decide) h

/-- OP.PROCESS keeps memory in canonical form. -/
theorem processStep_memoryWf (i : OpIdx) {s : State} (h : memoryWf s = true) : memoryWf (processStep i s) = true := by
  have hi := ((memoryWf_iff s).mp h).2 i
  unfold processStep
  split
  · exact seqFrame_memoryWf (s := setOp i _ s) rfl (setOp_memoryWf i _ hi h)
  · exact seqFrame_memoryWf (s := setOp i _ s) rfl (setOp_memoryWf i _ hi h)
  · unfold combStep
    have hw := delayWrite_memoryWf i s.op[i].w
      (fadd (s.nan 5) s.seq.chain (fmul (s.nan 4) (delayRead i (s.op[i].w - BitVec.ofNat Config.params.delayBits
        (combDelay (s.nan 2) s.fs (combHz s.nan s.act.op[i].ctx2))) s) (combFeedback s.seq.c1)))
      (s := delayFetch i (s.op[i].w - BitVec.ofNat Config.params.delayBits (combDelay (s.nan 2) s.fs (combHz s.nan s.act.op[i].ctx2))) s)
      (seqFrame_memoryWf (delayFetch_seqFrame i _ s) h)
    refine seqFrame_memoryWf (s := setOp i _ _) rfl (setOp_memoryWf i _ ?_ hw)
    exact ((memoryWf_iff _).mp hw).2 i
  · exact seqFrame_memoryWf (passStep_seqFrame s) h

end Sys2Proof.Machine
end

