-- ==== Sys2Proof/Laws/Comb.lean ====
section
/-! SUPPORT. OP.COMB (R212) in terms of the word it reads and the word it stores, so that later proofs need not unfold
it; and RAM reads elsewhere, without a premise on the RAM's form. -/

namespace Sys2Proof.Machine

/-- The delay length D of operator i in a state (R211). -/
def combLength (i : OpIdx) (s : State) : Nat := combDelay (s.nan 2) s.fs (combHz s.nan s.act.op[i].ctx2)

/-- The word OP.COMB reads (R212). -/
def combTap (i : OpIdx) (s : State) : F32 := delayRead i (s.op[i].w - BitVec.ofNat Config.params.delayBits (combLength i s)) s

/-- The word OP.COMB stores (R212). -/
def combStored (i : OpIdx) (s : State) : F32 :=
  fadd (s.nan 5) s.seq.chain (fmul (s.nan 4) (combTap i s) (combFeedback s.seq.c1))

/-- The operator after DWrite. -/
def writeDelay (k : DelayIdx) (v : F32) (o : Operator) : Operator :=
  { o with dly := if v = 0 then ramErase k.toNat o.dly else ramInsert k.toNat v o.dly }

theorem delayWrite_eq (i : OpIdx) (k : DelayIdx) (v : F32) (s : State) :
    delayWrite i k v s = setOp i (writeDelay k v s.op[i]) s := rfl

/-- Delay words other than the one written read as before, whatever the form of the RAM. -/
theorem delayRead_write_ne {i j : OpIdx} {k l : DelayIdx} (h : ¬(j = i ∧ l = k)) (v : F32) (s : State) :
    delayRead j l (delayWrite i k v s) = delayRead j l s := by
  unfold delayRead
  rw [delayWrite_eq, setOp_op]
  split
  · rename_i hij; subst hij
    have hne : l.toNat ≠ k.toNat := fun e => h ⟨rfl, BitVec.eq_of_toNat_eq e⟩
    simp only [writeDelay]
    split
    · rw [ramRead_erase_ne hne]
    · rw [ramRead_insert_ne hne]
  · rfl

/-- OP.COMB: the output, and the operator with the word stored and the write index advanced. -/
theorem combStep_eq (i : OpIdx) (s : State) :
    combStep i s = drew 6 (setOut (fadd (s.nan 3) s.seq.chain (combTap i s))
      (setOp i { (delayWrite i s.op[i].w (combStored i s) (delayFetch i (s.op[i].w - BitVec.ofNat Config.params.delayBits (combLength i s)) s)).op[i]
                 with w := s.op[i].w + 1 }
        (delayWrite i s.op[i].w (combStored i s) (delayFetch i (s.op[i].w - BitVec.ofNat Config.params.delayBits (combLength i s)) s)))) := rfl

theorem drew_setOut_setOp_frame (n : Nat) (x : F32) (i : OpIdx) (o : Operator) (s : State) :
    drew n (setOut x (setOp i o s)) =
      { s with op := (setOp i o s).op, seq := { s.seq with out := x }, draws := s.draws + n } := rfl

theorem delayWrite_frame (i : OpIdx) (k : DelayIdx) (v : F32) (s : State) :
    delayWrite i k v s = { s with op := (delayWrite i k v s).op } := rfl

theorem delayFetch_frame (i : OpIdx) (k : DelayIdx) (s : State) :
    delayFetch i k s = { s with seq := { s.seq with dval := delayRead i k s } } := rfl

/-- What OP.COMB changes besides its operator. -/
theorem combStep_frame (i : OpIdx) (s : State) :
    combStep i s =
      { s with
        op := (combStep i s).op
        seq := { s.seq with out := fadd (s.nan 3) s.seq.chain (combTap i s), dval := combTap i s }
        draws := s.draws + 6 } := by
  rw [combStep_eq, drew_setOut_setOp_frame, delayWrite_frame, delayFetch_frame]; rfl

theorem combStep_op (i j : OpIdx) (s : State) :
    (combStep i s).op[j] =
      if i = j then { writeDelay s.op[i].w (combStored i s) s.op[i] with w := s.op[i].w + 1 } else s.op[j] := by
  rw [combStep_eq]
  simp only [drew_op, setOut, setSeq_op]
  rw [setOp_op]
  split
  · rw [delayWrite_eq, setOp_op, if_pos rfl]; rfl
  · rename_i h; rw [delayWrite_eq, setOp_op, if_neg h]; rfl

/-- What the delay RAMs read after OP.COMB: as after the one DWrite. -/
theorem delayRead_combStep (i j : OpIdx) (l : DelayIdx) (s : State) :
    delayRead j l (combStep i s) = delayRead j l (delayWrite i s.op[i].w (combStored i s) s) := by
  unfold delayRead
  rw [combStep_op, delayWrite_eq, setOp_op]
  split <;> rfl

end Sys2Proof.Machine
end

