-- ==== Sys2Proof/Laws/Rounding.lean ====
section
/-! SUPPORT. Rounding (R151): a quotient that does not exceed a binary32 datum does not exceed it after rounding, and
the same from below. Data are compared by the low 31 bits of their words, which rise with the magnitude. -/

namespace Sys2Proof.Machine

/-- The magnitude, in units of 2^-149, of the datum with the given low 31 bits. -/
def magVal (m : Nat) : Nat := if m < 2 ^ 23 then m else (2 ^ 23 + m % 2 ^ 23) * 2 ^ (m / 2 ^ 23 - 1)

/-- The low 31 bits of a word. -/
def f32Mag (x : F32) : Nat := (x.extractLsb' 0 31).toNat

theorem f32Mag_eq (x : F32) : f32Mag x = x.toNat % 2 ^ 31 := by
  simp [f32Mag, BitVec.extractLsb'_toNat]

theorem f32Mag_lt (x : F32) : f32Mag x < 2 ^ 31 := (x.extractLsb' 0 31).isLt

theorem f32Exp_eq (x : F32) : f32Exp x = f32Mag x / 2 ^ 23 := by
  rw [f32Mag_eq]; simp only [f32Exp, BitVec.extractLsb'_toNat, Nat.shiftRight_eq_div_pow]; omega

theorem f32Frac_eq (x : F32) : f32Frac x = f32Mag x % 2 ^ 23 := by
  rw [f32Mag_eq]; simp only [f32Frac, BitVec.extractLsb'_toNat, Nat.shiftRight_eq_div_pow]; omega

theorem fixMag_eq (x : F32) : fixMag x = magVal (f32Mag x) := by
  simp only [fixMag, magVal, f32Exp_eq, f32Frac_eq]
  by_cases h : f32Mag x < 2 ^ 23
  · have h1 : f32Mag x / 2 ^ 23 = 0 := by omega
    have h2 : f32Mag x % 2 ^ 23 = f32Mag x := by omega
    rw [if_pos h1, if_pos h, h2]
  · have h1 : ¬f32Mag x / 2 ^ 23 = 0 := by omega
    rw [if_neg h1, if_neg h]

theorem magVal_small {m : Nat} (h : m < 2 ^ 24) : magVal m = m := by
  unfold magVal
  split
  · rfl
  · have h1 : m / 2 ^ 23 - 1 = 0 := by omega
    have h2 : m % 2 ^ 23 = m - 2 ^ 23 := by omega
    rw [h1, h2]; omega

theorem magVal_split {m : Nat} (h : 2 ^ 24 ≤ m) : magVal m = (2 ^ 23 + m % 2 ^ 23) * 2 ^ (m / 2 ^ 23 - 1) := by
  unfold magVal; rw [if_neg (by omega)]

/-! The quotient rounded to an integer. -/

theorem roundHalfEven_le {p q k : Nat} (h : p ≤ k * q) : roundHalfEven p q ≤ k := by
  unfold roundHalfEven
  rcases Nat.eq_zero_or_pos q with hq | hq
  · subst hq; simp at h; subst h; simp
  have h1 : p / q ≤ k := Nat.div_le_of_le_mul (by rwa [Nat.mul_comm])
  rcases Nat.lt_or_eq_of_le h1 with h2 | h2
  · simp only; split <;> [omega; (split <;> omega)]
  · have h3 : p % q = 0 := by
      have := Nat.div_add_mod p q
      rw [h2, Nat.mul_comm] at this; omega
    simp only [h3]; rw [if_pos (by omega)]; exact h1

theorem le_roundHalfEven {p q k : Nat} (hq : 0 < q) (h : k * q ≤ p) : k ≤ roundHalfEven p q := by
  have h1 : k ≤ p / q := (Nat.le_div_iff_mul_le hq).mpr h
  unfold roundHalfEven
  simp only; split <;> [omega; (split <;> omega)]

/-! The rounded datum. -/

theorem div_lt_pow {p q : Nat} (hq : 0 < q) : p < 2 ^ ((p / q).log2 + 1) * q := by
  rw [← Nat.div_lt_iff_lt_mul hq]; exact Nat.lt_log2_self

theorem pow_le_div {p q : Nat} (h : p / q ≠ 0) : 2 ^ (p / q).log2 * q ≤ p :=
  le_trans (Nat.mul_le_mul_right q (Nat.log2_self_le h)) (Nat.div_mul_le_self p q)

/-- Rounding does not go above a datum the exact value does not exceed. -/
theorem roundMag_le {p q m : Nat} (hq : 0 < q) (h : p ≤ magVal m * q) : roundMag p q ≤ m := by
  refine le_trans (Nat.min_le_right _ _) ?_
  unfold roundShift
  by_cases hn : p / q < 2 ^ 24
  · rw [if_pos hn]; simp only [Nat.zero_mul, Nat.zero_add, Nat.pow_zero, Nat.mul_one]
    by_cases hm : m < 2 ^ 24
    · rw [magVal_small hm] at h; exact roundHalfEven_le h
    · refine le_trans (roundHalfEven_le (k := 2 ^ 24) ?_) (by omega)
      exact le_of_lt ((Nat.div_lt_iff_lt_mul hq).mp hn)
  · rw [if_neg hn]
    have hne : p / q ≠ 0 := by omega
    have hL : 24 ≤ (p / q).log2 := (Nat.le_log2 hne).mpr (by omega)
    have hup := div_lt_pow (p := p) hq
    have hlo := pow_le_div hne
    generalize (p / q).log2 = L at hL hup hlo
    obtain ⟨t, rfl⟩ : ∃ t, L = t + 23 := ⟨L - 23, by omega⟩
    simp only [Nat.add_sub_cancel]
    have hm : 2 ^ 24 ≤ m := by
      by_contra hm
      rw [magVal_small (by omega)] at h
      have : p / q ≤ m := Nat.div_le_of_le_mul (by rwa [Nat.mul_comm])
      omega
    rw [magVal_split hm] at h
    obtain ⟨e, f, hf, rfl⟩ : ∃ e f, f < 2 ^ 23 ∧ m = (e + 1) * 2 ^ 23 + f :=
      ⟨m / 2 ^ 23 - 1, m % 2 ^ 23, Nat.mod_lt _ (by norm_num), by omega⟩
    have h1 : ((e + 1) * 2 ^ 23 + f) % 2 ^ 23 = f := by omega
    have h2 : ((e + 1) * 2 ^ 23 + f) / 2 ^ 23 - 1 = e := by omega
    rw [h1, h2] at h
    have hte : t ≤ e := by
      by_contra hte
      have h3 : (2 ^ 23 + f) * 2 ^ e < 2 ^ (t + 23) := by
        calc (2 ^ 23 + f) * 2 ^ e < 2 ^ 24 * 2 ^ e := Nat.mul_lt_mul_of_pos_right (by omega) (Nat.two_pow_pos e)
          _ = 2 ^ (24 + e) := by rw [Nat.pow_add]
          _ ≤ 2 ^ (t + 23) := Nat.pow_le_pow_right (by norm_num) (by omega)
      exact absurd (le_trans hlo h) (not_le.mpr (Nat.mul_lt_mul_of_pos_right h3 hq))
    rcases Nat.lt_or_eq_of_le hte with hlt | rfl
    · have : roundHalfEven p (q * 2 ^ t) ≤ 2 ^ 24 := by
        refine roundHalfEven_le (le_of_lt (lt_of_lt_of_eq hup ?_))
        rw [Nat.pow_add, Nat.pow_add]; ring
      have : (t + 1) * 2 ^ 23 ≤ e * 2 ^ 23 := Nat.mul_le_mul_right _ hlt
      omega
    · have : roundHalfEven p (q * 2 ^ t) ≤ 2 ^ 23 + f := roundHalfEven_le (by rw [← mul_assoc, mul_right_comm]; exact h)
      omega

/-- Rounding does not go below a datum (or the infinity) that the exact value reaches. -/
theorem le_roundMag {p q m : Nat} (hq : 0 < q) (hm : m ≤ infMag) (h : magVal m * q ≤ p) : m ≤ roundMag p q := by
  refine le_min hm ?_
  unfold roundShift
  by_cases hn : p / q < 2 ^ 24
  · rw [if_pos hn]; simp only [Nat.zero_mul, Nat.zero_add, Nat.pow_zero, Nat.mul_one]
    have h1 : magVal m ≤ p / q := (Nat.le_div_iff_mul_le hq).mpr h
    have hm2 : m < 2 ^ 24 := by
      by_contra hm2
      rw [magVal_split (by omega)] at h1
      have h2 : 2 ^ 23 * 2 ≤ (2 ^ 23 + m % 2 ^ 23) * 2 ^ (m / 2 ^ 23 - 1) :=
        Nat.mul_le_mul (by omega) (le_trans (by norm_num) (Nat.pow_le_pow_right (n := 2) (by norm_num)
          (show 1 ≤ m / 2 ^ 23 - 1 by omega)))
      omega
    rw [magVal_small hm2] at h; exact le_roundHalfEven hq h
  · rw [if_neg hn]
    have hne : p / q ≠ 0 := by omega
    have hL : 24 ≤ (p / q).log2 := (Nat.le_log2 hne).mpr (by omega)
    have hup := div_lt_pow (p := p) hq
    have hlo := pow_le_div hne
    generalize (p / q).log2 = L at hL hup hlo
    obtain ⟨t, rfl⟩ : ∃ t, L = t + 23 := ⟨L - 23, by omega⟩
    simp only [Nat.add_sub_cancel]
    have hq2 : 0 < q * 2 ^ t := Nat.mul_pos hq (Nat.two_pow_pos t)
    have hbase : 2 ^ 23 ≤ roundHalfEven p (q * 2 ^ t) := by
      refine le_roundHalfEven hq2 (le_trans (le_of_eq ?_) hlo)
      rw [Nat.pow_add]; ring
    by_cases hm2 : m < 2 ^ 24
    · have : 1 ≤ t := by omega
      have : 1 * 2 ^ 23 ≤ t * 2 ^ 23 := Nat.mul_le_mul_right _ this
      omega
    · rw [magVal_split (by omega)] at h
      obtain ⟨e, f, hf, rfl⟩ : ∃ e f, f < 2 ^ 23 ∧ m = (e + 1) * 2 ^ 23 + f :=
        ⟨m / 2 ^ 23 - 1, m % 2 ^ 23, Nat.mod_lt _ (by norm_num), by omega⟩
      have h1 : ((e + 1) * 2 ^ 23 + f) % 2 ^ 23 = f := by omega
      have h2 : ((e + 1) * 2 ^ 23 + f) / 2 ^ 23 - 1 = e := by omega
      rw [h1, h2] at h
      have hte : e ≤ t := by
        by_contra hte
        have h3 : 2 ^ (t + 23 + 1) ≤ (2 ^ 23 + f) * 2 ^ e := by
          calc 2 ^ (t + 23 + 1) ≤ 2 ^ (23 + e) := Nat.pow_le_pow_right (by norm_num) (by omega)
            _ = 2 ^ 23 * 2 ^ e := by rw [Nat.pow_add]
            _ ≤ (2 ^ 23 + f) * 2 ^ e := Nat.mul_le_mul_right _ (by omega)
        exact absurd (lt_of_le_of_lt h hup) (not_lt.mpr (Nat.mul_le_mul_right q h3))
      rcases Nat.lt_or_eq_of_le hte with hlt | rfl
      · have : (e + 1) * 2 ^ 23 ≤ t * 2 ^ 23 := Nat.mul_le_mul_right _ hlt
        exact Nat.add_le_add this (le_trans (le_of_lt hf) hbase)
      · have : 2 ^ 23 + f ≤ roundHalfEven p (q * 2 ^ e) := le_roundHalfEven hq2 (by rw [← mul_assoc, mul_right_comm]; exact h)
        omega

/-- A datum rounds to itself. -/
theorem roundMag_exact {m q : Nat} (hq : 0 < q) (hm : m ≤ infMag) : roundMag (magVal m * q) q = m :=
  by
  apply le_antisymm
  · exact roundMag_le hq (le_refl _)
  · exact le_roundMag hq hm (le_refl _)

/-! Fields of a magnitude, and its order. -/

theorem split_mod (e : Nat) {f : Nat} (hf : f < 2 ^ 23) : (e * 2 ^ 23 + f) % 2 ^ 23 = f := by
  rw [Nat.mul_comm, Nat.mul_add_mod, Nat.mod_eq_of_lt hf]

theorem split_div (e : Nat) {f : Nat} (hf : f < 2 ^ 23) : (e * 2 ^ 23 + f) / 2 ^ 23 = e := by
  rw [Nat.mul_comm, Nat.mul_add_div (Nat.two_pow_pos 23), Nat.div_eq_of_lt hf, Nat.add_zero]

/-- The magnitude of an exponent field e + 1 and a fraction f. -/
theorem magVal_fields (e : Nat) {f : Nat} (hf : f < 2 ^ 23) :
    magVal ((e + 1) * 2 ^ 23 + f) = (2 ^ 23 + f) * 2 ^ e := by
  have h : ¬(e + 1) * 2 ^ 23 + f < 2 ^ 23 := by omega
  rw [magVal, if_neg h, split_mod _ hf, split_div _ hf, Nat.add_sub_cancel]

theorem magVal_strictMono : StrictMono magVal := by
  apply strictMono_nat_of_lt_succ
  intro m
  by_cases h : m + 1 < 2 ^ 24
  · rw [magVal_small h, magVal_small (Nat.lt_of_succ_lt h)]; exact Nat.lt_succ_self m
  · obtain ⟨e, f, hf, rfl⟩ : ∃ e f, f < 2 ^ 23 ∧ m = (e + 1) * 2 ^ 23 + f :=
      ⟨m / 2 ^ 23 - 1, m % 2 ^ 23, Nat.mod_lt _ (by norm_num), by omega⟩
    rw [magVal_fields e hf]
    by_cases hc : f + 1 < 2 ^ 23
    · rw [add_assoc, magVal_fields e hc]; exact Nat.mul_lt_mul_of_pos_right (Nat.lt_succ_self _) (Nat.two_pow_pos e)
    · have hf' : f + 1 = 2 ^ 23 := by omega
      have : (e + 1) * 2 ^ 23 + f + 1 = (e + 1 + 1) * 2 ^ 23 + 0 := by rw [add_assoc, hf']; ring
      rw [this, magVal_fields _ (Nat.two_pow_pos 23), show (2 ^ 23 + 0) * 2 ^ (e + 1) = 2 ^ 24 * 2 ^ e by ring]
      exact Nat.mul_lt_mul_of_pos_right (by omega) (Nat.two_pow_pos e)

/-! How far rounding moves a value. -/

theorem roundHalfEven_error (p : Nat) {q : Nat} (hq : 0 < q) :
    2 * (roundHalfEven p q * q) ≤ 2 * p + q ∧ 2 * p ≤ 2 * (roundHalfEven p q * q) + q := by
  have h := Nat.div_add_mod p q
  have h2 := Nat.mod_lt p hq
  unfold roundHalfEven
  simp only
  have e : p / q * q = q * (p / q) := Nat.mul_comm _ _
  split
  · omega
  · split
    · rw [add_mul]; omega
    · have : 2 * (p % q) = q := by omega
      have e2 : (p / q + p / q % 2) * q = q * (p / q) + p / q % 2 * q := by rw [add_mul, e]
      rcases Nat.mod_two_eq_zero_or_one (p / q) with h3 | h3 <;> rw [h3] at e2 ⊢ <;> omega

theorem magVal_scaled {s r : Nat} (h1 : 2 ^ 23 ≤ r) (h2 : r ≤ 2 ^ 24) : magVal (s * 2 ^ 23 + r) = r * 2 ^ s := by
  obtain ⟨f, rfl⟩ := Nat.exists_eq_add_of_le h1
  rcases Nat.lt_or_ge f (2 ^ 23) with h | h
  · rw [← magVal_fields s h, Nat.succ_mul, Nat.add_assoc]
  · have : f = 2 ^ 23 := by omega
    subst this
    have : s * 2 ^ 23 + (2 ^ 23 + 2 ^ 23) = (s + 1 + 1) * 2 ^ 23 + 0 := by ring
    rw [this, magVal_fields _ (Nat.two_pow_pos 23), pow_succ]; ring

/-- A quotient below 2^(24+s), rounded, is wrong by at most half of 2^s. -/
theorem roundMag_error {p q s : Nat} (hq : 0 < q) (hs : s ≤ 253) (h : p < 2 ^ (24 + s) * q) :
    2 * (magVal (roundMag p q) * q) ≤ 2 * p + 2 ^ s * q ∧ 2 * p ≤ 2 * (magVal (roundMag p q) * q) + 2 ^ s * q ∧
    roundMag p q ≤ (s + 2) * 2 ^ 23 := by
  have hdiv : p / q < 2 ^ (24 + s) := (Nat.div_lt_iff_lt_mul hq).mpr h
  have hone : 1 ≤ 2 ^ s := Nat.one_le_two_pow
  unfold roundMag
  simp only
  unfold roundShift
  by_cases hn : p / q < 2 ^ 24
  · rw [if_pos hn]; simp only [Nat.zero_mul, Nat.zero_add, Nat.pow_zero, Nat.mul_one]
    have hr : roundHalfEven p q ≤ 2 ^ 24 := roundHalfEven_le (le_of_lt ((Nat.div_lt_iff_lt_mul hq).mp hn))
    rw [Nat.min_eq_right (by unfold infMag; omega)]
    have hv : magVal (roundHalfEven p q) = roundHalfEven p q := by
      rcases Nat.lt_or_eq_of_le hr with h1 | h1
      · exact magVal_small h1
      · rw [h1]; decide
    rw [hv]
    have he := roundHalfEven_error p hq
    have : q ≤ 2 ^ s * q := Nat.le_mul_of_pos_left q hone
    refine ⟨by omega, by omega, ?_⟩
    have : 2 * 2 ^ 23 ≤ (s + 2) * 2 ^ 23 := Nat.mul_le_mul_right _ (by omega)
    omega
  · rw [if_neg hn]
    have hne : p / q ≠ 0 := by omega
    have hL : 24 ≤ (p / q).log2 := (Nat.le_log2 hne).mpr (by omega)
    have hLs : (p / q).log2 < 24 + s := (Nat.log2_lt hne).mpr hdiv
    have hup := div_lt_pow (p := p) hq
    have hlo := pow_le_div hne
    generalize (p / q).log2 = L at hL hLs hup hlo
    obtain ⟨t, rfl⟩ : ∃ t, L = t + 23 := ⟨L - 23, by omega⟩
    simp only [Nat.add_sub_cancel]
    have hq2 : 0 < q * 2 ^ t := Nat.mul_pos hq (Nat.two_pow_pos t)
    have hr1 : 2 ^ 23 ≤ roundHalfEven p (q * 2 ^ t) :=
      le_roundHalfEven hq2 (le_trans (le_of_eq (by rw [Nat.pow_add]; ring)) hlo)
    have hr2 : roundHalfEven p (q * 2 ^ t) ≤ 2 ^ 24 :=
      roundHalfEven_le (le_of_lt (lt_of_lt_of_eq hup (by rw [Nat.pow_add, Nat.pow_add]; ring)))
    have hts : t ≤ s := by omega
    have hm : t * 2 ^ 23 + roundHalfEven p (q * 2 ^ t) ≤ (s + 2) * 2 ^ 23 := by
      have h1 : t * 2 ^ 23 ≤ s * 2 ^ 23 := Nat.mul_le_mul_right _ hts
      rw [add_mul]; exact Nat.add_le_add h1 hr2
    have hi : (s + 2) * 2 ^ 23 ≤ infMag := le_trans (Nat.mul_le_mul_right _ (Nat.add_le_add_right hs 2)) (by decide)
    rw [Nat.min_eq_right (le_trans hm hi), magVal_scaled hr1 hr2]
    have he := roundHalfEven_error p hq2
    have hpw : q * 2 ^ t ≤ 2 ^ s * q := by rw [Nat.mul_comm]; exact Nat.mul_le_mul_right _ (Nat.pow_le_pow_right (by norm_num) hts)
    have e : roundHalfEven p (q * 2 ^ t) * 2 ^ t * q = roundHalfEven p (q * 2 ^ t) * (q * 2 ^ t) := by ring
    rw [e]
    exact ⟨by omega, by omega, hm⟩
end Sys2Proof.Machine
end

