-- ==== Sys2Proof/Laws/Series.lean ====
section
/-! SUPPORT. The series of the transcendental units against the real functions, and the search by halves. -/

namespace Sys2Proof.Machine

open Finset

/-! What the series add up. -/

theorem altSeries_pos {q : Nat} (hq : 0 < q) (x n : Nat) : ∀ {i : Nat}, 0 < i → 0 < (altSeries q x n i).2 := by
  induction n with
  | zero => intro i _; simp [altSeries]
  | succ n ih => intro i hi; have := ih (i := i + 2) (by omega); simp only [altSeries]; positivity

/-- What the series adds up. -/
theorem altSeries_eq {q : Nat} (hq : 0 < q) (x n : Nat) : ∀ i : Nat,
    ((altSeries q x n (i + 1)).1 : ℝ) / (altSeries q x n (i + 1)).2 =
      ∑ k ∈ range (n + 1), (-1) ^ k * ((x : ℝ) / q) ^ (2 * k) * (i.factorial / (i + 2 * k).factorial) := by
  induction n with
  | zero => intro i; have : (i.factorial : ℝ) ≠ 0 := by positivity
            simp [altSeries, this]
  | succ n ih =>
    intro i
    have h0 := altSeries_pos hq x n (i := i + 3) (by omega)
    have h := ih (i + 2)
    have hh : (0 : ℝ) < (altSeries q x n (i + 3)).2 := by exact_mod_cast h0
    have hq' : (0 : ℝ) < q := by exact_mod_cast hq
    rw [sum_range_succ']
    have e1 : ((altSeries q x (n + 1) (i + 1)).1 : ℝ) / (altSeries q x (n + 1) (i + 1)).2
        = 1 - ((x : ℝ) / q) ^ 2 / ((i + 1) * (i + 2)) * (((altSeries q x n (i + 3)).1 : ℝ) / (altSeries q x n (i + 3)).2) := by
      simp only [altSeries]
      rw [show i + 1 + 2 = i + 3 from rfl]
      push_cast
      field_simp
      ring
    rw [e1, h, mul_sum]
    have e2 : (i.factorial : ℝ) ≠ 0 := by positivity
    simp only [pow_zero, mul_zero, add_zero, mul_one, div_self e2]
    rw [sub_eq_add_neg, add_comm, ← sum_neg_distrib]
    congr 1
    apply sum_congr rfl
    intro k _
    rw [show i + 2 * (k + 1) = i + 2 + 2 * k by ring, show (i + 2).factorial = (i + 2) * ((i + 1) * i.factorial) by
      rw [Nat.factorial_succ, Nat.factorial_succ]]
    have e3 : ((i + 2 + 2 * k).factorial : ℝ) ≠ 0 := by positivity
    generalize (x : ℝ) / q = y
    push_cast
    field_simp
    ring

theorem exp_sum_parts (y : ℝ) (n : Nat) :
    ∑ m ∈ range (2 * n + 2), ((y : ℂ) * Complex.I) ^ m / m.factorial =
      ((∑ k ∈ range (n + 1), (-1) ^ k * y ^ (2 * k) / (2 * k).factorial : ℝ) : ℂ) +
      ((∑ k ∈ range (n + 1), (-1) ^ k * y ^ (2 * k + 1) / (2 * k + 1).factorial : ℝ) : ℂ) * Complex.I := by
  have key : ∀ k : Nat, ((y : ℂ) * Complex.I) ^ (2 * k) = (((-1) ^ k * y ^ (2 * k) : ℝ) : ℂ) := by
    intro k; rw [pow_mul, mul_pow, Complex.I_sq]; push_cast; rw [mul_pow, ← pow_mul]; ring
  induction n with
  | zero => simp [sum_range_succ]
  | succ n ih =>
    rw [show 2 * (n + 1) + 2 = 2 * n + 2 + 1 + 1 by ring, sum_range_succ, sum_range_succ, ih, sum_range_succ _ (n + 1), sum_range_succ _ (n + 1)]
    have h1 := key (n + 1)
    rw [show 2 * n + 3 = 2 * (n + 1) + 1 by ring, show 2 * n + 2 = 2 * (n + 1) by ring, pow_succ ((y : ℂ) * Complex.I) (2 * (n + 1)), h1]
    push_cast
    ring

/-- The error of the two series. -/
theorem series_error {y : ℝ} {n : Nat} (h : |y| ≤ n + 1) :
    |(∑ k ∈ range (n + 1), (-1) ^ k * y ^ (2 * k + 1) / (2 * k + 1).factorial) - Real.sin y|
        ≤ |y| ^ (2 * n + 2) / (2 * n + 2).factorial * 2 ∧
    |(∑ k ∈ range (n + 1), (-1) ^ k * y ^ (2 * k) / (2 * k).factorial) - Real.cos y|
        ≤ |y| ^ (2 * n + 2) / (2 * n + 2).factorial * 2 := by
  have hn : ‖(y : ℂ) * Complex.I‖ = |y| := by simp
  have hb := Complex.exp_bound' (x := (y : ℂ) * Complex.I) (n := 2 * n + 2) (by
    rw [hn, div_le_iff₀ (by positivity)]; push_cast; linarith)
  rw [hn, exp_sum_parts, Complex.exp_mul_I] at hb
  set S := ∑ k ∈ range (n + 1), (-1) ^ k * y ^ (2 * k + 1) / (2 * k + 1).factorial
  set C := ∑ k ∈ range (n + 1), (-1) ^ k * y ^ (2 * k) / (2 * k).factorial
  have hz : Complex.cos y + Complex.sin y * Complex.I - ((C : ℂ) + (S : ℂ) * Complex.I)
      = ((Real.cos y - C : ℝ) : ℂ) + ((Real.sin y - S : ℝ) : ℂ) * Complex.I := by push_cast; ring
  rw [hz] at hb
  constructor
  · rw [abs_sub_comm]
    refine le_trans ?_ hb
    have := Complex.abs_im_le_norm (((Real.cos y - C : ℝ) : ℂ) + ((Real.sin y - S : ℝ) : ℂ) * Complex.I)
    simpa [← Complex.ofReal_sin, ← Complex.ofReal_cos] using this
  · rw [abs_sub_comm]
    refine le_trans ?_ hb
    have := Complex.abs_re_le_norm (((Real.cos y - C : ℝ) : ℂ) + ((Real.sin y - S : ℝ) : ℂ) * Complex.I)
    simpa [← Complex.ofReal_sin, ← Complex.ofReal_cos] using this
theorem sinSeries_pos {q : Nat} (hq : 0 < q) (x n : Nat) : 0 < (sinSeries q x n).2 := altSeries_pos hq x n (by decide)
theorem cosSeries_pos {q : Nat} (hq : 0 < q) (x n : Nat) : 0 < (cosSeries q x n).2 := altSeries_pos hq x n (by decide)

/-- The sine series is within its first term left out, twice, of the sine. -/
theorem sinSeries_error {q : Nat} (hq : 0 < q) {x n : Nat} (h : x ≤ (n + 1) * q) :
    |((sinSeries q x n).1 : ℝ) / (sinSeries q x n).2 - q * Real.sin ((x : ℝ) / q)|
      ≤ q * (((x : ℝ) / q) ^ (2 * n + 2) / (2 * n + 2).factorial * 2) := by
  have hq' : (0 : ℝ) < q := by exact_mod_cast hq
  have hy : (0 : ℝ) ≤ (x : ℝ) / q := by positivity
  have h1 : |(x : ℝ) / q| ≤ n + 1 := by
    rw [abs_of_nonneg hy, div_le_iff₀ hq']; exact_mod_cast h
  have h2 := (series_error h1).1
  rw [abs_of_nonneg hy] at h2
  have h3 : ((sinSeries q x n).1 : ℝ) / (sinSeries q x n).2
      = q * ∑ k ∈ range (n + 1), (-1) ^ k * ((x : ℝ) / q) ^ (2 * k + 1) / (2 * k + 1).factorial := by
    have := altSeries_eq hq x n 1
    simp only [sinSeries]
    push_cast
    rw [mul_div_assoc, this, mul_sum, mul_sum]
    apply sum_congr rfl
    intro k _
    have e : (x : ℝ) = q * ((x : ℝ) / q) := by field_simp
    generalize (x : ℝ) / q = y at e ⊢
    rw [e, show 1 + 2 * k = 2 * k + 1 by ring, Nat.factorial_one]; push_cast; ring
  rw [h3, ← mul_sub, abs_mul, abs_of_pos hq']
  exact mul_le_mul_of_nonneg_left h2 hq'.le

theorem cosSeries_error {q : Nat} (hq : 0 < q) {x n : Nat} (h : x ≤ (n + 1) * q) :
    |((cosSeries q x n).1 : ℝ) / (cosSeries q x n).2 - Real.cos ((x : ℝ) / q)|
      ≤ ((x : ℝ) / q) ^ (2 * n + 2) / (2 * n + 2).factorial * 2 := by
  have hq' : (0 : ℝ) < q := by exact_mod_cast hq
  have hy : (0 : ℝ) ≤ (x : ℝ) / q := by positivity
  have h1 : |(x : ℝ) / q| ≤ n + 1 := by
    rw [abs_of_nonneg hy, div_le_iff₀ hq']; exact_mod_cast h
  have h2 := (series_error h1).2
  rw [abs_of_nonneg hy] at h2
  have h3 : ((cosSeries q x n).1 : ℝ) / (cosSeries q x n).2
      = ∑ k ∈ range (n + 1), (-1) ^ k * ((x : ℝ) / q) ^ (2 * k) / (2 * k).factorial := by
    have := altSeries_eq hq x n 0
    simp only [cosSeries]
    rw [this]
    apply sum_congr rfl
    intro k _
    rw [Nat.zero_add, Nat.factorial_zero]; push_cast; ring
  rw [h3]; exact h2

theorem long_tail : (64 : ℝ) ^ (2 * sinTerms + 2) / (2 * sinTerms + 2).factorial * 2 ≤ 1 / 2 ^ 150 := by
  have h : 64 ^ (2 * sinTerms + 2) * 2 * 2 ^ 150 ≤ (2 * sinTerms + 2).factorial := by decide +kernel
  have h' : (64 : ℝ) ^ (2 * sinTerms + 2) * 2 * 2 ^ 150 ≤ (2 * sinTerms + 2).factorial := by exact_mod_cast h
  rw [div_mul_eq_mul_div, div_le_div_iff₀ (by positivity) (by positivity)]; linarith

theorem short_tail : (2 : ℝ) ^ (2 * shortTerms + 2) / (2 * shortTerms + 2).factorial * 2 ≤ 1 / 2 ^ 160 := by
  have h : 2 ^ (2 * shortTerms + 2) * 2 * 2 ^ 160 ≤ (2 * shortTerms + 2).factorial := by decide +kernel
  have h' : (2 : ℝ) ^ (2 * shortTerms + 2) * 2 * 2 ^ 160 ≤ (2 * shortTerms + 2).factorial := by exact_mod_cast h
  rw [div_mul_eq_mul_div, div_le_div_iff₀ (by positivity) (by positivity)]; linarith

/-- The error of the long sine series, relative to q, up to 64. -/
theorem sinSeries_long {q : Nat} (hq : 0 < q) {x : Nat} (h : x ≤ 64 * q) :
    |((sinSeries q x sinTerms).1 : ℝ) / (sinSeries q x sinTerms).2 - q * Real.sin ((x : ℝ) / q)| ≤ q / 2 ^ 150 := by
  have hq' : (0 : ℝ) < q := by exact_mod_cast hq
  have hx : (x : ℝ) / q ≤ 64 := by rw [div_le_iff₀ hq']; exact_mod_cast h
  refine le_trans (sinSeries_error hq (by unfold sinTerms; nlinarith)) ?_
  rw [div_eq_mul_one_div (q : ℝ)]
  refine mul_le_mul_of_nonneg_left (le_trans ?_ long_tail) hq'.le
  gcongr

/-- The error of the short series, up to 2. -/
theorem sinSeries_short {q : Nat} (hq : 0 < q) {x : Nat} (h : x ≤ 2 * q) :
    |((sinSeries q x shortTerms).1 : ℝ) / (sinSeries q x shortTerms).2 - q * Real.sin ((x : ℝ) / q)| ≤ q / 2 ^ 160 := by
  have hq' : (0 : ℝ) < q := by exact_mod_cast hq
  have hx : (x : ℝ) / q ≤ 2 := by rw [div_le_iff₀ hq']; exact_mod_cast h
  refine le_trans (sinSeries_error hq (by unfold shortTerms; nlinarith)) ?_
  rw [div_eq_mul_one_div (q : ℝ)]
  refine mul_le_mul_of_nonneg_left (le_trans ?_ short_tail) hq'.le
  gcongr

theorem cosSeries_short {q : Nat} (hq : 0 < q) {x : Nat} (h : x ≤ 2 * q) :
    |((cosSeries q x shortTerms).1 : ℝ) / (cosSeries q x shortTerms).2 - Real.cos ((x : ℝ) / q)| ≤ 1 / 2 ^ 160 := by
  have hq' : (0 : ℝ) < q := by exact_mod_cast hq
  have hx : (x : ℝ) / q ≤ 2 := by rw [div_le_iff₀ hq']; exact_mod_cast h
  refine le_trans (cosSeries_error hq (by unfold shortTerms; nlinarith)) (le_trans ?_ short_tail)
  gcongr

/-! Search by halves. -/

theorem searchBits_bounds (p : Nat → Bool) (n : Nat) : ∀ acc, acc ≤ searchBits p n acc ∧ searchBits p n acc < acc + 2 ^ n := by
  induction n with
  | zero => intro acc; simp [searchBits]
  | succ n ih =>
    intro acc; simp only [searchBits]
    have h1 := ih acc
    have h2 := ih (acc + 2 ^ n)
    split <;> (rw [pow_succ]; omega)

/-- The search ends at a number that p is true of, with p false of the next. -/
theorem searchBits_spec (p : Nat → Bool) (n : Nat) : ∀ acc, p acc = true → p (acc + 2 ^ n) = false →
    p (searchBits p n acc) = true ∧ p (searchBits p n acc + 1) = false := by
  induction n with
  | zero => intro acc h1 h2; exact ⟨h1, h2⟩
  | succ n ih =>
    intro acc h1 h2; simp only [searchBits]
    split
    · rename_i h; exact ih _ h (by rw [add_assoc, ← two_mul, ← pow_succ']; exact h2)
    · rename_i h; exact ih _ h1 (by simpa using h)

/-- A weaker test ends no earlier. -/
theorem searchBits_mono {p p' : Nat → Bool} (h : ∀ m, p m = true → p' m = true) (n : Nat) :
    ∀ acc, searchBits p n acc ≤ searchBits p' n acc := by
  induction n with
  | zero => intro acc; exact le_refl _
  | succ n ih =>
    intro acc; simp only [searchBits]
    split
    · rename_i h1; rw [if_pos (h _ h1)]; exact ih _
    · split
      · exact le_trans (searchBits_bounds p n acc).2.le (searchBits_bounds p' n _).1
      · exact ih _
theorem sharp_tail : (2 : ℝ) ^ 49 / (2 * shortTerms + 2).factorial * 2 ≤ 1 / 2 ^ 164 := by
  have h : 2 ^ 49 * 2 * 2 ^ 164 ≤ (2 * shortTerms + 2).factorial := by decide +kernel
  have h' : (2 : ℝ) ^ 49 * 2 * 2 ^ 164 ≤ (2 * shortTerms + 2).factorial := by exact_mod_cast h
  rw [div_mul_eq_mul_div, div_le_div_iff₀ (by positivity) (by positivity)]; linarith

theorem sharp_pow {y : ℝ} (h0 : 0 ≤ y) (h2 : y ≤ 2) :
    y ^ (2 * shortTerms + 2) / (2 * shortTerms + 2).factorial * 2 ≤ y / 2 ^ 164 := by
  have e : y ^ (2 * shortTerms + 2) / (2 * shortTerms + 2).factorial * 2
      = y * (y ^ 49 / (2 * shortTerms + 2).factorial * 2) := by
    rw [show 2 * shortTerms + 2 = 49 + 1 from rfl, pow_succ]; ring
  rw [e, div_eq_mul_one_div y]
  refine mul_le_mul_of_nonneg_left (le_trans ?_ sharp_tail) h0
  gcongr

end Sys2Proof.Machine
end

