-- ==== Sys2Proof/Laws/Values.lean ====
section
/-! SUPPORT. Binary32 data as a sign and the low 31 bits of the word: the predicates and comparisons in these terms, the
packing operation, and the facts about NaNs, clamp and wrap that later proofs cite. -/

namespace Sys2Proof.Machine

/-! NaNs (R156). -/

theorem quietNaN_exp (b : BitVec 23) : (quietNaN b).extractLsb' 23 8 = 0xFF#8 := by
  apply BitVec.eq_of_getLsbD_eq; intro i hi
  simp only [quietNaN, BitVec.getLsbD_extractLsb', BitVec.getLsbD_append]
  interval_cases i <;> simp

theorem quietNaN_quiet (b : BitVec 23) : (quietNaN b).getLsbD 22 = true := by
  simp only [quietNaN, BitVec.getLsbD_append]; simp

theorem quietNaN_isNaN (b : BitVec 23) : isNaN (quietNaN b) = true := by
  have h : f32Frac (quietNaN b) ≠ 0 := by
    intro h
    have h1 : (quietNaN b).extractLsb' 0 23 = 0#23 := BitVec.eq_of_toNat_eq (by simpa [f32Frac] using h)
    have h2 := congrArg (fun v => v.getLsbD 22) h1
    simp only [BitVec.getLsbD_extractLsb', Nat.zero_add, quietNaN_quiet] at h2
    simp at h2
  simp [isNaN, f32Exp, quietNaN_exp, h]

/-- Every draw is a quiet NaN. -/
theorem State.nan_isNaN (s : State) (k : Nat) : isNaN (s.nan k) = true := quietNaN_isNaN _

theorem State.nan_quiet (s : State) (k : Nat) : (s.nan k).getLsbD 22 = true := quietNaN_quiet _

/-! Sign and magnitude. -/

theorem f32Sign_eq (x : F32) : f32Sign x = decide (2 ^ 31 ≤ x.toNat) := by
  have := BitVec.msb_eq_decide x
  simpa [f32Sign, BitVec.msb, BitVec.getMsbD] using this

theorem isNaN_iff (x : F32) : isNaN x = true ↔ infMag < f32Mag x := by
  simp only [isNaN, Bool.and_eq_true, beq_iff_eq, bne_iff_ne, f32Exp_eq, f32Frac_eq, infMag]
  have := f32Mag_lt x; omega

theorem isInf_iff (x : F32) : isInf x = true ↔ f32Mag x = infMag := by
  simp only [isInf, Bool.and_eq_true, beq_iff_eq, f32Exp_eq, f32Frac_eq, infMag]
  have := f32Mag_lt x; omega

theorem isFinite_iff (x : F32) : isFinite x = true ↔ f32Mag x < infMag := by
  simp only [isFinite, bne_iff_ne, f32Exp_eq, infMag]
  have := f32Mag_lt x; omega

theorem isZero_iff (x : F32) : isZero x = true ↔ f32Mag x = 0 := by
  simp only [isZero, Bool.and_eq_true, beq_iff_eq, f32Exp_eq, f32Frac_eq]
  have := f32Mag_lt x; omega

theorem f32Key_eq (x : F32) : f32Key x = if f32Sign x then -(f32Mag x : Int) else (f32Mag x : Int) := rfl

theorem fle_iff (a b : F32) : fle a b = true ↔ f32Mag a ≤ infMag ∧ f32Mag b ≤ infMag ∧ f32Key a ≤ f32Key b := by
  have ha := isNaN_iff a
  have hb := isNaN_iff b
  cases h1 : isNaN a <;> cases h2 : isNaN b <;> simp [fle, h1, h2] at * <;> omega

theorem flt_iff (a b : F32) : flt a b = true ↔ f32Mag a ≤ infMag ∧ f32Mag b ≤ infMag ∧ f32Key a < f32Key b := by
  have ha := isNaN_iff a
  have hb := isNaN_iff b
  cases h1 : isNaN a <;> cases h2 : isNaN b <;> simp [flt, h1, h2] at * <;> omega

theorem feq_iff (a b : F32) : feq a b = true ↔ f32Mag a ≤ infMag ∧ f32Mag b ≤ infMag ∧ f32Key a = f32Key b := by
  have ha := isNaN_iff a
  have hb := isNaN_iff b
  cases h1 : isNaN a <;> cases h2 : isNaN b <;> simp [feq, h1, h2] at * <;> omega

/-! Packing. -/

theorem packF32_mag (neg : Bool) {m : Nat} (h : m < 2 ^ 31) : f32Mag (packF32 neg m) = m := by
  rw [f32Mag_eq, packF32, BitVec.toNat_ofNat]; cases neg <;> simp <;> omega

theorem packF32_sign (neg : Bool) {m : Nat} (h : m < 2 ^ 31) : f32Sign (packF32 neg m) = neg := by
  rw [f32Sign_eq, packF32, BitVec.toNat_ofNat]; cases neg <;> simp <;> omega

theorem roundMag_le_infMag (p q : Nat) : roundMag p q ≤ infMag := Nat.min_le_left _ _

theorem infMag_lt : infMag < 2 ^ 31 := by decide

/-- This instance does not flush (R8, R151). -/
@[simp] theorem flushMag_eq (m : Nat) : flushMag m = m := rfl

theorem roundF32_eq (neg : Bool) (p q : Nat) : roundF32 neg p q = packF32 neg (roundMag p q) := by
  rw [roundF32, flushMag_eq]

theorem roundF32_mag (neg : Bool) (p q : Nat) : f32Mag (roundF32 neg p q) = roundMag p q := by
  rw [roundF32_eq]; exact packF32_mag neg (lt_of_le_of_lt (roundMag_le_infMag p q) infMag_lt)

theorem roundF32_sign (neg : Bool) (p q : Nat) : f32Sign (roundF32 neg p q) = neg := by
  rw [roundF32_eq]; exact packF32_sign neg (lt_of_le_of_lt (roundMag_le_infMag p q) infMag_lt)

/-- A rounded result is never a NaN. -/
theorem roundF32_not_nan (neg : Bool) (p q : Nat) : isNaN (roundF32 neg p q) = false := by
  rw [Bool.eq_false_iff]; intro h
  rw [isNaN_iff, roundF32_mag] at h
  exact absurd (roundMag_le_infMag p q) (not_le.mpr h)

theorem f32_ext {a b : F32} (hs : f32Sign a = f32Sign b) (hm : f32Mag a = f32Mag b) : a = b := by
  apply BitVec.eq_of_toNat_eq
  rw [f32Sign_eq, f32Sign_eq, decide_eq_decide] at hs
  rw [f32Mag_eq, f32Mag_eq] at hm
  have := a.isLt; have := b.isLt; omega

theorem fneg_mag (x : F32) : f32Mag (fneg x) = f32Mag x := by
  have h : (fneg x).extractLsb' 0 31 = x.extractLsb' 0 31 := by
    apply BitVec.eq_of_getLsbD_eq; intro i hi
    have h1 : (0x80000000#32).getLsbD i = false := by interval_cases i <;> rfl
    simp only [fneg, fNegZero, BitVec.getLsbD_extractLsb', BitVec.getLsbD_xor, Nat.zero_add, h1, Bool.xor_false]
  simp only [f32Mag, h]

theorem fneg_sign (x : F32) : f32Sign (fneg x) = !f32Sign x := by
  simp [f32Sign, fneg, fNegZero]

theorem fneg_fneg (x : F32) : fneg (fneg x) = x := by
  simp [fneg]

/-! Values (R150, R157): the order of the keys is the order of the values. -/

theorem fixVal_eq (x : F32) : fixVal x = if f32Sign x then -(magVal (f32Mag x) : Int) else (magVal (f32Mag x) : Int) := by
  simp only [fixVal, fixMag_eq]

theorem key_lt_iff (a b : F32) : f32Key a < f32Key b ↔ fixVal a < fixVal b := by
  have hm := magVal_strictMono
  have h1 : f32Mag a < f32Mag b ↔ magVal (f32Mag a) < magVal (f32Mag b) := hm.lt_iff_lt.symm
  have h2 : f32Mag b < f32Mag a ↔ magVal (f32Mag b) < magVal (f32Mag a) := hm.lt_iff_lt.symm
  have z : magVal 0 = 0 := rfl
  have ha : magVal (f32Mag a) = 0 ↔ f32Mag a = 0 := by rw [← z]; exact hm.injective.eq_iff
  have hb : magVal (f32Mag b) = 0 ↔ f32Mag b = 0 := by rw [← z]; exact hm.injective.eq_iff
  rw [f32Key_eq, f32Key_eq, fixVal_eq, fixVal_eq]
  cases f32Sign a <;> cases f32Sign b <;> simp <;> omega

theorem flt_value {a b : F32} (ha : isNaN a = false) (hb : isNaN b = false) : flt a b = true ↔ fixVal a < fixVal b := by
  rw [← key_lt_iff]; simp [flt, ha, hb]

theorem fle_value {a b : F32} (ha : isNaN a = false) (hb : isNaN b = false) : fle a b = true ↔ fixVal a ≤ fixVal b := by
  rw [← not_lt, ← key_lt_iff, not_lt]; simp [fle, ha, hb]

theorem finite_not_nan {x : F32} (h : isFinite x = true) : isNaN x = false := by
  rw [isFinite_iff] at h; rw [Bool.eq_false_iff, ne_eq, isNaN_iff]; omega

theorem fabs_mag (x : F32) : f32Mag (fabs x) = f32Mag x := by
  have h : (fabs x).extractLsb' 0 31 = x.extractLsb' 0 31 := by
    apply BitVec.eq_of_getLsbD_eq; intro i hi
    have h1 : (0x7FFFFFFF#32).getLsbD i = true := by interval_cases i <;> rfl
    simp only [fabs, BitVec.getLsbD_extractLsb', BitVec.getLsbD_and, Nat.zero_add, h1, Bool.and_true]
  simp only [f32Mag, h]

theorem fabs_sign (x : F32) : f32Sign (fabs x) = false := by
  simp [f32Sign, fabs]

theorem fixVal_fneg (x : F32) : fixVal (fneg x) = -fixVal x := by
  rw [fixVal_eq, fixVal_eq, fneg_mag, fneg_sign]; cases f32Sign x <;> simp

theorem fixVal_fabs (x : F32) : fixVal (fabs x) = fixMag x := by
  rw [fixVal_eq, fabs_mag, fabs_sign, fixMag_eq]; simp

theorem fixMag_fabs (x : F32) : fixMag (fabs x) = fixMag x := by rw [fixMag_eq, fixMag_eq, fabs_mag]

theorem roundF32_value (neg : Bool) (p q : Nat) :
    fixVal (roundF32 neg p q) = if neg then -(magVal (roundMag p q) : Int) else (magVal (roundMag p q) : Int) := by
  rw [fixVal_eq, roundF32_mag, roundF32_sign]

theorem ofNat_mag {m : Nat} (h : m < 2 ^ 31) : f32Mag (BitVec.ofNat 32 m) = m ∧ f32Sign (BitVec.ofNat 32 m) = false := by
  rw [f32Mag_eq, f32Sign_eq, BitVec.toNat_ofNat]
  constructor
  · omega
  · rw [decide_eq_false_iff_not]; omega

/-! Clamp and wrap (R160, R166). -/

/-- A clamped value is finite and in the range, whatever the operand (R160). -/
theorem clamp_range {x lo hi : F32} (h : fle lo hi = true) :
    fle lo (clamp x lo hi) = true ∧ fle (clamp x lo hi) hi = true := by
  have h0 := (fle_iff lo hi).mp h
  unfold clamp
  split
  · exact ⟨(fle_iff lo lo).mpr ⟨h0.1, h0.1, le_refl _⟩, h⟩
  · rename_i h1
    have hx : f32Mag x ≤ infMag := by
      rw [isNaN_iff] at h1; omega
    split
    · exact ⟨(fle_iff lo lo).mpr ⟨h0.1, h0.1, le_refl _⟩, h⟩
    · rename_i h2
      split
      · exact ⟨h, (fle_iff hi hi).mpr ⟨h0.2.1, h0.2.1, le_refl _⟩⟩
      · rename_i h3
        rw [flt_iff] at h2
        rw [fgt, flt_iff] at h3
        exact ⟨(fle_iff _ _).mpr ⟨h0.1, hx, by by_contra hc; exact h2 ⟨hx, h0.1, by omega⟩⟩,
          (fle_iff _ _).mpr ⟨hx, h0.2.1, by by_contra hc; exact h3 ⟨h0.2.1, hx, by omega⟩⟩⟩

/-- The final guard of wrap gives a phase in range. -/
theorem guarded_inPhase (r : F32) : inPhase (if fge r fZero && flt r fTwoPi then r else fZero) := by
  split
  · rename_i h; rw [Bool.and_eq_true] at h; exact h
  · decide

/-- A wrapped phase is in [0, 2π), whatever the operand (R166). -/
theorem wrap_inPhase (nan : Nat → F32) (x : F32) : inPhase (wrap nan x) := guarded_inPhase _

/-- Clamping to a range that holds t brings a number no further from t. -/
theorem clamp_near {v lo hi : F32} (hv : isNaN v = false) (hlo : isNaN lo = false) (hhi : isNaN hi = false) {t e : ℝ}
    (h1 : (fixVal lo : ℝ) ≤ t) (h2 : t ≤ (fixVal hi : ℝ)) (h : |(fixVal v : ℝ) - t| ≤ e) :
    |(fixVal (clamp v lo hi) : ℝ) - t| ≤ e := by
  rw [abs_le] at h
  unfold clamp
  rw [hv]; simp only [Bool.false_eq_true, if_false]
  split
  · rename_i h3; rw [flt_value hv hlo] at h3
    have h3' : (fixVal v : ℝ) < fixVal lo := by exact_mod_cast h3
    rw [abs_le]; constructor <;> linarith
  · split
    · rename_i h3; rw [fgt, flt_value hhi hv] at h3
      have h3' : (fixVal hi : ℝ) < fixVal v := by exact_mod_cast h3
      rw [abs_le]; constructor <;> linarith
    · rw [abs_le]; exact h

end Sys2Proof.Machine
end

