-- ==== Sys2Proof/Laws/Units.lean ====
section
/-! SUPPORT. The transcendental units keep the accuracy of R170 to R172, and the tangent unit rises. -/

-- One proof at a time: the evaluations below wait for every proof before them, each in a thread of its own.
set_option Elab.async false

namespace Sys2Proof.Machine

theorem fixVal_withSign (x m : F32) : fixVal (withSignOf x m) = if f32Sign x then -fixVal m else fixVal m := by
  unfold withSignOf; split <;> [exact fixVal_fneg m; rfl]

theorem unitOne_pos : 0 < unitOne := by decide

/-- One, in units of a magnitude, as a real number. -/
abbrev unitR : ℝ := 2 ^ 149

theorem unitOne_real : (unitOne : ℝ) = unitR := by norm_num [unitOne, unitR]

theorem unitR_pos : (0 : ℝ) < unitR := by unfold unitR; positivity

/-- Two distances over a common denominator add. -/
theorem near_trans {M S p q a b : ℝ} (hq : 0 < q) (h1 : |M * q - p| ≤ a * q) (h2 : |p - S * q| ≤ b * q) :
    |M - S| ≤ a + b := by
  have h := abs_add_le (M * q - p) (p - S * q)
  rw [show M * q - p + (p - S * q) = (M - S) * q by ring, abs_mul, abs_of_pos hq] at h
  have : |M - S| * q ≤ (a + b) * q := by rw [add_mul]; linarith
  exact le_of_mul_le_mul_right this hq

/-- An integer series over its denominator, within e of a number, in product form. -/
theorem near_product {p q S e : ℝ} (hq : 0 < q) (h : |p / q - S| ≤ e) : |p - S * q| ≤ e * q := by
  have h1 : p - S * q = (p / q - S) * q := by field_simp
  rw [h1, abs_mul, abs_of_pos hq]
  exact mul_le_mul_of_nonneg_right h hq.le

/-! The sine unit. -/

/-- The sine series lies within half a unit of the sine. -/
theorem sinSeries_half {X : Nat} (hX : X ≤ 64 * unitOne) :
    0 < (sinSeries unitOne X sinTerms).2 ∧
    |((sinSeries unitOne X sinTerms).1 : ℝ) - unitR * Real.sin ((X : ℝ) / unitR) * (sinSeries unitOne X sinTerms).2|
      ≤ 1 / 2 * (sinSeries unitOne X sinTerms).2 := by
  have hs := sinSeries_long unitOne_pos hX
  have hp := sinSeries_pos unitOne_pos X sinTerms
  rw [unitOne_real, show unitR / 2 ^ 150 = 1 / 2 by unfold unitR; norm_num] at hs
  exact ⟨hp, near_product (by exact_mod_cast hp) hs⟩

/-- A magnitude that is at most half a unit past one is rounded by at most 2^-25. -/
theorem roundMag_one_error {p q : Nat} (hq : 0 < q) (h : p * 2 ≤ 2 ^ 150 * q + q) :
    |(magVal (roundMag p q) : ℝ) * q - p| ≤ 2 ^ 124 * q := by
  have hqR : (0 : ℝ) < q := by exact_mod_cast hq
  have hlt : p < 2 ^ (24 + 126) * q := by
    have : 2 ^ (24 + 126) * q = 2 ^ 150 * q := by norm_num
    omega
  by_cases hc : p < 2 ^ (24 + 125) * q
  · have h := roundMag_error hq (by norm_num) hc
    have h1 : (2 * (magVal (roundMag p q) * q) : ℝ) ≤ 2 * p + 2 ^ 125 * q := by exact_mod_cast h.1
    have h2 : (2 * p : ℝ) ≤ 2 * (magVal (roundMag p q) * q) + 2 ^ 125 * q := by exact_mod_cast h.2.1
    rw [abs_le]; constructor <;> linarith
  · have h0 : magVal (127 * 2 ^ 23) = 2 ^ 149 := by decide
    have e0 : 2 ^ (24 + 125) * q = 2 ^ 149 * q := by norm_num
    have hge : 127 * 2 ^ 23 ≤ roundMag p q := le_roundMag hq (by decide) (by rw [h0]; omega)
    have hle2 : roundMag p q ≤ 127 * 2 ^ 23 := by
      by_contra hcon
      have h3 : magVal (127 * 2 ^ 23 + 1) ≤ magVal (roundMag p q) := magVal_strictMono.monotone (by omega)
      rw [show magVal (127 * 2 ^ 23 + 1) = 2 ^ 149 + 2 ^ 126 by decide] at h3
      have h5 := Nat.mul_le_mul_right q h3
      have h6 : 2 * (magVal (roundMag p q) * q) ≤ 2 * p + 2 ^ 126 * q := (roundMag_error hq (by norm_num) hlt).1
      rw [add_mul] at h5
      omega
    rw [le_antisymm hle2 hge, h0]
    have h7 : (2 : ℝ) ^ 149 * q ≤ p := by
      have : 2 ^ 149 * q ≤ p := by omega
      exact_mod_cast this
    have h8 : (p : ℝ) * 2 ≤ 2 ^ 150 * q + q := by exact_mod_cast h
    have h9 : (1 : ℝ) / 2 * q ≤ 2 ^ 124 * q := mul_le_mul_of_nonneg_right (by norm_num) hqR.le
    push_cast
    rw [abs_le]; constructor <;> linarith

/-- The reference sine is within SIN_ERR of the sine. -/
theorem sinRef_near {x : F32} (hx : fixMag x ≤ 64 * unitOne) :
    isNaN (sinRef x) = false ∧
    |(fixVal (sinRef x) : ℝ) - unitR * Real.sin ((fixMag x : ℝ) / unitR)| ≤ 2 ^ 125 := by
  refine ⟨roundF32_not_nan _ _ _, ?_⟩
  obtain ⟨hp, hs⟩ := sinSeries_half hx
  unfold sinRef
  simp only [roundF32_value]
  generalize sinSeries unitOne (fixMag x) sinTerms = t at hs hp
  obtain ⟨p, q⟩ := t
  simp only at hs hp ⊢
  have hq : (0 : ℝ) < q := by exact_mod_cast hp
  have hS1 : |unitR * Real.sin ((fixMag x : ℝ) / unitR)| ≤ unitR := by
    rw [abs_mul, abs_of_pos unitR_pos]
    exact mul_le_of_le_one_right unitR_pos.le (Real.abs_sin_le_one _)
  generalize unitR * Real.sin ((fixMag x : ℝ) / unitR) = S at *
  have hpa : (p.natAbs : ℝ) = |(p : ℝ)| := by rw [Nat.cast_natAbs]; push_cast; rfl
  have hle : p.natAbs * 2 ≤ 2 ^ 150 * q + q := by
    have h1 := abs_add_le (S * q) (p - S * q)
    rw [add_sub_cancel, abs_mul, abs_of_pos hq] at h1
    have h2 := mul_le_mul_of_nonneg_right hS1 hq.le
    have h3 : (p.natAbs : ℝ) * 2 ≤ 2 ^ 150 * q + q := by
      have e : (2 : ℝ) ^ 150 * q = 2 * (unitR * q) := by unfold unitR; ring
      rw [hpa, e]; linarith
    exact_mod_cast h3
  have key := roundMag_one_error hp hle
  generalize magVal (roundMag p.natAbs q) = m at key ⊢
  have hfin : |((if decide (p < 0) = true then -(m : Int) else (m : Int) : Int) : ℝ) * q - p| ≤ 2 ^ 124 * q := by
    by_cases h : p < 0
    · have h1 : (p.natAbs : ℝ) = -p := by rw [hpa]; exact abs_of_neg (by exact_mod_cast h)
      rw [h1] at key
      rw [if_pos (by simpa using h), ← abs_neg]; push_cast; convert key using 2; ring
    · have h1 : (p.natAbs : ℝ) = p := by rw [hpa]; exact abs_of_nonneg (by exact_mod_cast not_lt.mp h)
      rw [h1] at key
      rw [if_neg (by simpa using h)]; exact key
  exact le_trans (near_trans hq hfin hs) (by norm_num)

/-- The sine unit is within SIN_ERR of the sine (R170 (S5)), before the clamp to [-1, 1]. -/
theorem sinUnit_near {x : F32} (h64 : fle x fSinDomain = true) (hx : fixMag x ≤ 64 * unitOne) :
    isNaN (sinUnit x) = false ∧
    |(fixVal (sinUnit x) : ℝ) - unitR * Real.sin ((fixMag x : ℝ) / unitR)| ≤ 2 ^ 125 := by
  unfold sinUnit
  rw [if_pos h64]
  simp only
  split
  · rename_i h
    simp only [sinAccurate, Bool.and_eq_true, decide_eq_true_eq] at h
    refine ⟨finite_not_nan h.1, ?_⟩
    have h2 := h.2
    obtain ⟨hp, hs⟩ := sinSeries_half hx
    generalize sinSeries unitOne (fixMag x) sinTerms = t at hs hp h2
    obtain ⟨p, q⟩ := t
    simp only at hs hp h2
    have hq : (0 : ℝ) < q := by exact_mod_cast hp
    generalize fixVal (sinRef x + Config.params.sinOff x) = M at h2 ⊢
    have h3 : |(M : ℝ) * q - p| ≤ (2 ^ 125 - 1) * q := by
      have e : ((M * q - p).natAbs : ℝ) = |(M : ℝ) * q - p| := by rw [Nat.cast_natAbs]; push_cast; rfl
      have h4 : (((M * q - p).natAbs + q : Nat) : ℝ) ≤ ((2 ^ 125 * q : Nat) : ℝ) := Nat.cast_le.mpr h2
      rw [Nat.cast_add, Nat.cast_mul, show ((2 ^ 125 : Nat) : ℝ) = 2 ^ 125 by norm_num, e] at h4
      clear h2
      rw [sub_mul, one_mul]; linarith
    exact le_trans (near_trans hq h3 hs) (by norm_num)
  · exact sinRef_near hx

/-! The arcsine unit. -/

/-- Magnitude of fHalfPi. -/
def halfPiMag : Nat := 13176795 * 2 ^ 126
theorem fHalfPi_mag : fixMag fHalfPi = halfPiMag := by decide +kernel

theorem halfPi_low : (halfPiMag : ℝ) / unitR - 1 / 2 ^ 24 ≤ Real.pi / 2 := by
  have := Real.pi_gt_d20
  have e : (halfPiMag : ℝ) / unitR = 13176795 / 2 ^ 23 := by unfold halfPiMag unitR; push_cast; norm_num
  rw [e]; norm_num at this ⊢; linarith

theorem halfPi_high : Real.pi / 2 ≤ (halfPiMag : ℝ) / unitR := by
  have := Real.pi_lt_d20
  have e : (halfPiMag : ℝ) / unitR = 13176795 / 2 ^ 23 := by unfold halfPiMag unitR; push_cast; norm_num
  rw [e]; norm_num at this ⊢; linarith

/-- What the tests on the sine series say of the sine. -/
theorem sinAtMost_real {k v x room : Nat} (hk : 0 < k) (hv : v ≤ 2 * (k * unitOne))
    (h : sinAtMost (k * unitOne) v x room = true) :
    (k * unitR) * Real.sin ((v : ℝ) / (k * unitR)) ≤ x - room + k * unitR / 2 ^ 160 := by
  have hq : 0 < k * unitOne := Nat.mul_pos hk unitOne_pos
  have hs := sinSeries_short hq hv
  have hp := sinSeries_pos hq v shortTerms
  simp only [sinAtMost, decide_eq_true_eq] at h
  generalize sinSeries (k * unitOne) v shortTerms = t at hs hp h
  obtain ⟨p, d⟩ := t
  simp only at hs hp h
  have hd : (0 : ℝ) < d := by exact_mod_cast hp
  push_cast at hs
  rw [unitOne_real] at hs
  have h' : (p : ℝ) + room * d ≤ x * d := by exact_mod_cast h
  have h2 : (p : ℝ) / d ≤ x - room := by rw [div_le_iff₀ hd]; linarith
  rw [abs_le] at hs; linarith [hs.1]

theorem sinAtMost_not_real {k v x : Nat} (hk : 0 < k) (hv : v ≤ 2 * (k * unitOne))
    (h : sinAtMost (k * unitOne) v x 0 = false) :
    (x : ℝ) - k * unitR / 2 ^ 160 ≤ (k * unitR) * Real.sin ((v : ℝ) / (k * unitR)) := by
  have hq : 0 < k * unitOne := Nat.mul_pos hk unitOne_pos
  have hs := sinSeries_short hq hv
  have hp := sinSeries_pos hq v shortTerms
  simp only [sinAtMost, decide_eq_false_iff_not, not_le] at h
  generalize sinSeries (k * unitOne) v shortTerms = t at hs hp h
  obtain ⟨p, d⟩ := t
  simp only at hs hp h
  have hd : (0 : ℝ) < d := by exact_mod_cast hp
  push_cast at hs
  rw [unitOne_real] at hs
  have h' : (x : ℝ) * d < p := by
    have : (x : Int) * d < p := by simpa using h
    exact_mod_cast this
  have h2 : (x : ℝ) ≤ p / d := by rw [le_div_iff₀ hd]; linarith
  rw [abs_le] at hs; linarith [hs.2]

theorem sinAtLeast_real {v x room : Nat} (hv : v ≤ 2 * unitOne) (h : sinAtLeast unitOne v x room = true) :
    (x : ℝ) + room - unitR / 2 ^ 160 ≤ unitR * Real.sin ((v : ℝ) / unitR) := by
  have hs := sinSeries_short unitOne_pos hv
  have hp := sinSeries_pos unitOne_pos v shortTerms
  simp only [sinAtLeast, decide_eq_true_eq] at h
  generalize sinSeries unitOne v shortTerms = t at hs hp h
  obtain ⟨p, d⟩ := t
  simp only at hs hp h
  have hd : (0 : ℝ) < d := by exact_mod_cast hp
  rw [unitOne_real] at hs
  have h' : ((x : ℝ) + room) * d ≤ p := by exact_mod_cast h
  have h2 : (x : ℝ) + room ≤ p / d := by rw [le_div_iff₀ hd]; linarith
  rw [abs_le] at hs; linarith [hs.2]

/-- The sine rises by at least an eighth of the square of its step. -/
theorem sine_gap {t d : ℝ} (hd : 0 < d) (h0 : 0 ≤ t) (h1 : t + d ≤ Real.pi / 2) :
    Real.sin t + d ^ 2 / 8 ≤ Real.sin (t + d) := by
  have hpi := Real.pi_le_four
  have e : Real.sin (t + d) - Real.sin t = 2 * Real.sin (d / 2) * Real.cos (t + d / 2) := by
    rw [Real.sin_sub_sin]; congr 2 <;> ring_nf
  have hs : d / 4 ≤ Real.sin (d / 2) := by
    have h := Real.mul_le_sin (x := d / 2) (by linarith) (by linarith [Real.pi_gt_three])
    have : d / 4 ≤ 2 / Real.pi * (d / 2) := by
      rw [div_mul_eq_mul_div, le_div_iff₀ Real.pi_pos]; nlinarith
    linarith
  have hc : d / 4 ≤ Real.cos (t + d / 2) := by
    rw [← Real.sin_pi_div_two_sub]
    refine le_trans hs (Real.sin_le_sin_of_le_of_le_pi_div_two (by linarith [Real.pi_gt_three]) (by linarith) (by linarith))
  nlinarith

theorem wordMag_eq {m : Nat} (h : m < 2 ^ 31) : wordMag m = magVal m := by
  unfold wordMag
  rw [fixMag_eq, f32Mag_eq, BitVec.toNat_ofNat]
  congr 1; omega

theorem magVal_step {m : Nat} (h : m + 1 ≤ 128 * 2 ^ 23) : magVal (m + 1) ≤ magVal m + 2 ^ 126 := by
  by_cases hs : m + 1 < 2 ^ 24
  · rw [magVal_small hs, magVal_small (Nat.lt_of_succ_lt hs)]
    exact Nat.add_le_add_left (by norm_num) _
  · obtain ⟨e, f, hf, rfl⟩ : ∃ e f, f < 2 ^ 23 ∧ m = (e + 1) * 2 ^ 23 + f :=
      ⟨m / 2 ^ 23 - 1, m % 2 ^ 23, Nat.mod_lt _ (by norm_num), by omega⟩
    have he : e ≤ 126 := by omega
    have hp : 2 ^ e ≤ 2 ^ 126 := Nat.pow_le_pow_right (by norm_num) he
    rw [magVal_fields e hf]
    by_cases hc : f + 1 < 2 ^ 23
    · rw [add_assoc, magVal_fields e hc, ← add_assoc, add_mul _ 1]
      rw [one_mul]; exact Nat.add_le_add_left hp _
    · have hf' : f + 1 = 2 ^ 23 := by omega
      have : (e + 1) * 2 ^ 23 + f + 1 = (e + 1 + 1) * 2 ^ 23 + 0 := by rw [add_assoc, hf']; ring
      rw [this, magVal_fields _ (Nat.two_pow_pos 23)]
      have e1 : (2 ^ 23 + 0) * 2 ^ (e + 1) = (2 ^ 23 + f) * 2 ^ e + 2 ^ e := by
        have : 2 ^ 23 + 2 ^ 23 = 2 ^ 23 + f + 1 := by rw [add_assoc, hf']
        calc (2 ^ 23 + 0) * 2 ^ (e + 1) = (2 ^ 23 + 2 ^ 23) * 2 ^ e := by ring
          _ = (2 ^ 23 + f + 1) * 2 ^ e := by rw [this]
          _ = _ := by ring
      rw [e1]; exact Nat.add_le_add_left hp _

theorem asin_bounds {X : Nat} (hX : X ≤ unitOne) : 0 ≤ (X : ℝ) / unitR ∧ (X : ℝ) / unitR ≤ 1 := by
  have : (X : ℝ) ≤ unitR := by rw [← unitOne_real]; exact_mod_cast hX
  exact ⟨div_nonneg (Nat.cast_nonneg _) unitR_pos.le, by rw [div_le_one unitR_pos]; exact this⟩

theorem le_arcsin_of_sin_le {t y : ℝ} (h0 : 0 ≤ t) (h : t ≤ Real.pi / 2) (hs : Real.sin t ≤ y) : t ≤ Real.arcsin y := by
  rw [← Real.arcsin_sin (by linarith [Real.pi_pos]) h]; exact Real.monotone_arcsin hs

theorem arcsin_le_of_le_sin {t y : ℝ} (h0 : 0 ≤ t) (hs : t < Real.pi / 2 → y ≤ Real.sin t) : Real.arcsin y ≤ t := by
  by_cases h : t < Real.pi / 2
  · rw [← Real.arcsin_sin (x := t) (by linarith [Real.pi_pos]) h.le]; exact Real.monotone_arcsin (hs h)
  · exact le_trans (Real.arcsin_le_pi_div_two y) (not_lt.mp h)

theorem halfPiMag_small : halfPiMag ≤ 2 * unitOne := by decide +kernel

/-- A word the test of A4 accepts is within ASIN_ERR of the arcsine. -/
theorem asinAccurate_near {x v : F32} (hX : fixMag x ≤ unitOne) (hs : f32Sign v = false) (h : asinAccurate x v = true) :
    isNaN v = false ∧ |(fixVal v : ℝ) - unitR * Real.arcsin ((fixMag x : ℝ) / unitR)| ≤ 2 ^ 126 := by
  have hU := unitR_pos
  simp only [asinAccurate, Bool.and_eq_true, Bool.or_eq_true, decide_eq_true_eq, fHalfPi_mag] at h
  obtain ⟨⟨h1, h2⟩, h3⟩ := h
  have hm : f32Mag v ≤ infMag := by
    by_contra hc
    have := magVal_strictMono.monotone (not_le.mp hc).le
    rw [← fixMag_eq] at this
    have h4 : halfPiMag < magVal infMag := by decide +kernel
    omega
  refine ⟨by rw [Bool.eq_false_iff, ne_eq, isNaN_iff]; omega, ?_⟩
  have hv : (fixVal v : ℝ) = fixMag v := by unfold fixVal; rw [hs]; simp
  rw [hv]
  obtain ⟨hx0, hx1⟩ := asin_bounds hX
  generalize fixMag v = Y at *
  have eX : unitR * ((fixMag x : ℝ) / unitR) = fixMag x := by field_simp
  generalize hx : (fixMag x : ℝ) / unitR = y at *
  have he : ((2 ^ 126 : Nat) : ℝ) = 2 ^ 126 := by norm_num
  have hYR : (Y : ℝ) ≤ halfPiMag := by exact_mod_cast h1
  have hA0 : 0 ≤ Real.arcsin y := Real.arcsin_nonneg.mpr hx0
  have hA1 := Real.arcsin_le_pi_div_two y
  have hlo := halfPi_low
  have hhi := halfPi_high
  have hdU : (2 : ℝ) ^ 126 / unitR = 1 / 2 ^ 23 := by unfold unitR; norm_num
  have low : (Y : ℝ) - 2 ^ 126 ≤ unitR * Real.arcsin y := by
    rcases h2 with h2 | h2
    · have : (Y : ℝ) ≤ ((2 ^ 126 : Nat) : ℝ) := Nat.cast_le.mpr h2
      rw [he] at this
      have := mul_nonneg hU.le hA0; linarith
    · by_cases hle : Y ≤ 2 ^ 126
      · have : (Y : ℝ) ≤ ((2 ^ 126 : Nat) : ℝ) := Nat.cast_le.mpr hle
        rw [he] at this
        have := mul_nonneg hU.le hA0; linarith
      · have h2' : sinAtMost (1 * unitOne) (Y - 2 ^ 126) (fixMag x) 1 = true := by rw [one_mul]; exact h2
        have h4 := sinAtMost_real Nat.one_pos (by have := halfPiMag_small; omega) h2'
        rw [Nat.cast_sub (not_le.mp hle).le, he] at h4
        simp only [Nat.cast_one, one_mul] at h4
        have h5 : unitR / 2 ^ 160 ≤ 1 := by unfold unitR; norm_num
        have hYg : (2 : ℝ) ^ 126 < Y := by rw [← he]; exact Nat.cast_lt.mpr (not_le.mp hle)
        have ht : ((Y : ℝ) - 2 ^ 126) / unitR ≤ Real.arcsin y := by
          refine le_arcsin_of_sin_le (div_nonneg (by linarith) hU.le) ?_ ?_
          · rw [sub_div, hdU]
            have : (Y : ℝ) / unitR ≤ halfPiMag / unitR := div_le_div_of_nonneg_right hYR hU.le
            have e2 : (1 : ℝ) / 2 ^ 24 ≤ 1 / 2 ^ 23 := by norm_num
            linarith
          · rw [← eX] at h4
            have : unitR * Real.sin (((Y : ℝ) - 2 ^ 126) / unitR) ≤ unitR * y := by linarith
            exact le_of_mul_le_mul_left this hU
        rw [div_le_iff₀ hU] at ht; linarith
  have high : unitR * Real.arcsin y ≤ Y + 2 ^ 126 := by
    have key : Real.arcsin y ≤ ((Y : ℝ) + 2 ^ 126) / unitR := by
      rcases h3 with h3 | h3
      · have : (halfPiMag : ℝ) ≤ ((Y + 2 ^ 126 : Nat) : ℝ) := Nat.cast_le.mpr h3
        rw [Nat.cast_add, he] at this
        exact le_trans hA1 (le_trans hhi (div_le_div_of_nonneg_right this hU.le))
      · by_cases hle : halfPiMag ≤ Y + 2 ^ 126
        · have : (halfPiMag : ℝ) ≤ ((Y + 2 ^ 126 : Nat) : ℝ) := Nat.cast_le.mpr hle
          rw [Nat.cast_add, he] at this
          exact le_trans hA1 (le_trans hhi (div_le_div_of_nonneg_right this hU.le))
        · have h4 := sinAtLeast_real (v := Y + 2 ^ 126) (by have := halfPiMag_small; omega) h3
          rw [Nat.cast_add, he] at h4
          have h5 : unitR / 2 ^ 160 ≤ 1 := by unfold unitR; norm_num
          refine arcsin_le_of_le_sin (div_nonneg (by positivity) hU.le) (fun _ => ?_)
          rw [← eX] at h4
          have : unitR * y ≤ unitR * Real.sin (((Y : ℝ) + 2 ^ 126) / unitR) := by simp only [Nat.cast_one] at h4; linarith
          exact le_of_mul_le_mul_left this hU
    rw [le_div_iff₀ hU] at key; linarith
  rw [abs_le]; constructor <;> linarith

/-- The midpoint of two neighbouring magnitudes up to 2. -/
theorem mid_bounds {a b : ℝ} (h : b ≤ a + 2 ^ 126) (h' : a ≤ b) :
    b / unitR - 1 / 2 ^ 24 ≤ (a + b) / (2 * unitR) ∧ (a + b) / (2 * unitR) ≤ a / unitR + 1 / 2 ^ 24 ∧
    (a + b) / (2 * unitR) ≤ b / unitR := by
  have hU := unitR_pos
  have hd : (1 : ℝ) / 2 ^ 24 = 2 ^ 125 / unitR := by unfold unitR; norm_num
  rw [hd, ← sub_div, ← add_div, div_le_div_iff₀ hU (by positivity), div_le_div_iff₀ (by positivity) hU,
    div_le_div_iff₀ (by positivity) hU]
  have e : (2 : ℝ) ^ 126 = 2 * 2 ^ 125 := by norm_num
  rw [e] at h
  generalize (2 : ℝ) ^ 125 = z at *
  refine ⟨by nlinarith, by nlinarith, by nlinarith⟩

theorem halfPi_word : magVal 0x3FC90FDB = halfPiMag := by decide +kernel

/-- A word up to fHalfPi and the one below it: their magnitudes, and the midpoint the search tests. -/
theorem arcsine_words {k : Nat} (hk : k + 1 ≤ 0x3FC90FDB) :
    midBelow (k + 1) = magVal k + magVal (k + 1) ∧ (magVal k : ℝ) ≤ magVal (k + 1) ∧
    (magVal (k + 1) : ℝ) ≤ magVal k + 2 ^ 126 ∧ magVal k + magVal (k + 1) ≤ 2 * (2 * unitOne) ∧
    ((magVal k : ℝ) + magVal (k + 1)) / (2 * unitR) ≤ Real.pi / 2 := by
  have hstep := magVal_step (m := k) (by omega)
  have hkk : magVal k ≤ magVal (k + 1) := magVal_strictMono.monotone (Nat.le_succ k)
  have h1 : magVal (k + 1) ≤ halfPiMag := by rw [← halfPi_word]; exact magVal_strictMono.monotone hk
  have h2 : magVal k ≤ halfPiMag - 2 ^ 126 := by
    rw [show halfPiMag - 2 ^ 126 = magVal 0x3FC90FDA by decide +kernel]; exact magVal_strictMono.monotone (by omega)
  have hc : 2 ^ 126 ≤ halfPiMag := by decide +kernel
  have he : ((2 ^ 126 : Nat) : ℝ) = 2 ^ 126 := by norm_num
  refine ⟨by unfold midBelow; rw [Nat.add_sub_cancel, wordMag_eq (by omega), wordMag_eq (by omega)],
    by exact_mod_cast hkk, ?_, by have := halfPiMag_small; omega, ?_⟩
  · have : ((magVal (k + 1) : Nat) : ℝ) ≤ ((magVal k + 2 ^ 126 : Nat) : ℝ) := Nat.cast_le.mpr hstep
    rwa [Nat.cast_add, he] at this
  · refine le_trans ?_ halfPi_low
    have r1 : (magVal (k + 1) : ℝ) ≤ halfPiMag := by exact_mod_cast h1
    have r2 : (magVal k : ℝ) ≤ halfPiMag - 2 ^ 126 := by
      have := Nat.cast_le (α := ℝ).mpr h2
      rwa [Nat.cast_sub hc, he] at this
    have e : (halfPiMag : ℝ) / unitR - 1 / 2 ^ 24 = (2 * halfPiMag - 2 ^ 126) / (2 * unitR) := by
      rw [show (1 : ℝ) / 2 ^ 24 = 2 ^ 125 / unitR by unfold unitR; norm_num]; field_simp
    rw [e]
    exact div_le_div_of_nonneg_right (by linarith) (mul_pos two_pos unitR_pos).le

/-- A word that passes the search's test is at most ASIN_ERR above the arcsine. -/
theorem arcsine_of_pass {m X : Nat} (hX : X ≤ unitOne) (hm : m ≤ 0x3FC90FDB)
    (hr : sinAtMost (2 * unitOne) (midBelow m) (2 * X) 0 = true) :
    (magVal m : ℝ) / unitR - 1 / 2 ^ 23 ≤ Real.arcsin ((X : ℝ) / unitR) := by
  obtain ⟨hx0, -⟩ := asin_bounds hX
  have hA0 := Real.arcsin_nonneg.mpr hx0
  have hd : (1 : ℝ) / 2 ^ 23 = 1 / 2 ^ 24 + 1 / 2 ^ 24 := by norm_num
  have hd0 : (0 : ℝ) < 1 / 2 ^ 24 := by norm_num
  cases m with
  | zero => rw [show magVal 0 = 0 from rfl, Nat.cast_zero, zero_div]; linarith
  | succ k =>
    obtain ⟨emid, hkk, hstep, hsmall, hpi⟩ := arcsine_words hm
    rw [emid] at hr
    have h4 := sinAtMost_real (k := 2) two_pos hsmall hr
    push_cast at h4
    obtain ⟨ht1, -, ht2⟩ := mid_bounds hstep hkk
    generalize ((magVal k : ℝ) + magVal (k + 1)) / (2 * unitR) = t at *
    by_cases hz : t ≤ 1 / 2 ^ 24
    · linarith
    · have eX : (X : ℝ) = unitR * ((X : ℝ) / unitR) := by field_simp
      have h5 : Real.sin t ≤ (X : ℝ) / unitR + 1 / 2 ^ 160 := by
        rw [eX] at h4
        exact le_of_mul_le_mul_left (le_trans h4 (le_of_eq (by ring))) (mul_pos two_pos unitR_pos)
      have h7 := sine_gap (t := t - 1 / 2 ^ 24) (d := 1 / 2 ^ 24) hd0 (by linarith) (by linarith)
      rw [sub_add_cancel] at h7
      have hgap : (1 : ℝ) / 2 ^ 160 ≤ (1 / 2 ^ 24) ^ 2 / 8 := by norm_num
      have h8 := le_arcsin_of_sin_le (t := t - 1 / 2 ^ 24) (y := (X : ℝ) / unitR) (by linarith) (by linarith) (by linarith)
      linarith

/-- A word whose successor fails the search's test is at most ASIN_ERR below the arcsine. -/
theorem arcsine_of_fail {m X : Nat} (hm : m + 1 ≤ 0x3FC90FDB)
    (hr : sinAtMost (2 * unitOne) (midBelow (m + 1)) (2 * X) 0 = false) :
    Real.arcsin ((X : ℝ) / unitR) ≤ (magVal m : ℝ) / unitR + 1 / 2 ^ 23 := by
  have hd : (1 : ℝ) / 2 ^ 23 = 1 / 2 ^ 24 + 1 / 2 ^ 24 := by norm_num
  have hU := unitR_pos
  obtain ⟨emid, hkk, hstep, hsmall, -⟩ := arcsine_words hm
  rw [emid] at hr
  have h4 := sinAtMost_not_real (k := 2) two_pos hsmall hr
  push_cast at h4
  obtain ⟨-, ht1, -⟩ := mid_bounds hstep hkk
  have ht0 : 0 ≤ ((magVal m : ℝ) + magVal (m + 1)) / (2 * unitR) := by positivity
  generalize ((magVal m : ℝ) + magVal (m + 1)) / (2 * unitR) = t at *
  have eX : (X : ℝ) = unitR * ((X : ℝ) / unitR) := by field_simp
  have h5 : (X : ℝ) / unitR - 1 / 2 ^ 160 ≤ Real.sin t := by
    rw [eX] at h4
    exact le_of_mul_le_mul_left (le_trans (le_of_eq (by ring)) h4) (mul_pos two_pos hU)
  have hgap : (1 : ℝ) / 2 ^ 160 ≤ (1 / 2 ^ 24) ^ 2 / 8 := by norm_num
  refine le_trans (b := t + 1 / 2 ^ 24) (arcsin_le_of_le_sin (by positivity) (fun hlt => ?_)) (by linarith)
  have h7 := sine_gap (t := t) (d := 1 / 2 ^ 24) (by norm_num) ht0 hlt.le
  linarith

/-- The reference arcsine is within ASIN_ERR of the arcsine. -/
theorem asinRef_near {x : F32} (hX : fixMag x ≤ unitOne) :
    isNaN (asinRef x) = false ∧
    |(fixVal (asinRef x) : ℝ) - unitR * Real.arcsin ((fixMag x : ℝ) / unitR)| ≤ 2 ^ 126 := by
  have hU := unitR_pos
  unfold asinRef
  rw [show fHalfPi.toNat = 0x3FC90FDB by decide]
  generalize hp : (fun m => decide (m ≤ 0x3FC90FDB) && sinAtMost (2 * unitOne) (midBelow m) (2 * fixMag x) 0) = p
  have hsp := searchBits_spec p 31 0
    (by rw [← hp]; simp only [sinAtMost, sinSeries, show midBelow 0 = 0 from rfl]; simp; positivity)
    (by rw [← hp]; simp)
  generalize searchBits p 31 0 = m at hsp
  rw [← hp] at hsp
  simp only [Bool.and_eq_true, Bool.and_eq_false_iff, decide_eq_true_eq, decide_eq_false_iff_not] at hsp
  obtain ⟨⟨hm, hr⟩, hn⟩ := hsp
  obtain ⟨g1, g2⟩ := ofNat_mag (m := m) (by omega)
  refine ⟨by rw [Bool.eq_false_iff, ne_eq, isNaN_iff, g1]; unfold infMag; omega, ?_⟩
  have low := arcsine_of_pass hX hm hr
  have high : Real.arcsin ((fixMag x : ℝ) / unitR) ≤ (magVal m : ℝ) / unitR + 1 / 2 ^ 23 := by
    by_cases hlast : m = 0x3FC90FDB
    · rw [hlast, halfPi_word]
      have : (0 : ℝ) < 1 / 2 ^ 23 := by norm_num
      exact le_trans (Real.arcsin_le_pi_div_two _) (le_trans halfPi_high (by linarith))
    · exact arcsine_of_fail (by omega) (hn.resolve_left (by omega))
  rw [fixVal_eq, g1, g2]
  simp only [Bool.false_eq_true, if_false]
  push_cast
  generalize Real.arcsin ((fixMag x : ℝ) / unitR) = A at *
  have e1 : (magVal m : ℝ) - unitR * A = unitR * ((magVal m : ℝ) / unitR - A) := by field_simp
  rw [e1, abs_mul, abs_of_pos hU, show (2 : ℝ) ^ 126 = unitR * (1 / 2 ^ 23) by unfold unitR; norm_num]
  refine mul_le_mul_of_nonneg_left ?_ hU.le
  rw [abs_le]; constructor <;> linarith

/-- The arcsine unit is within ASIN_ERR of the arcsine (R171 (A4)), before the clamp to [-pi/2, pi/2]. -/
theorem asinUnit_near {x : F32} (hX : fixMag x ≤ unitOne) :
    isNaN (asinUnit x) = false ∧ |(fixVal (asinUnit x) : ℝ) - unitR * Real.arcsin ((fixMag x : ℝ) / unitR)| ≤ 2 ^ 126 := by
  unfold asinUnit
  simp only
  split
  · rename_i h; rw [Bool.and_eq_true] at h
    exact asinAccurate_near hX (by simpa using h.1) h.2
  · exact asinRef_near hX

/-! The tangent unit. -/

/-- Magnitude of the end of the domain of tan32. -/
def tanDomainMag : Nat := 11952927 * 2 ^ 126

/-- The tangent series is close to the tangent, relative to its operand. -/
theorem tanSeries_near {X : Nat} (h0 : 0 < X) (hX : X ≤ tanDomainMag) :
    0 < (tanSeries X).1 ∧ 0 < (tanSeries X).2 ∧
    |((tanSeries X).1 : ℝ) / (tanSeries X).2 - unitR * Real.tan ((X : ℝ) / unitR)| ≤ X / 2 ^ 154 ∧
    1 / 16 ≤ Real.cos ((X : ℝ) / unitR) ∧ (X : ℝ) / unitR ≤ 1.4249 := by
  have hU := unitR_pos
  have hTX : tanDomainMag ≤ 2 * unitOne := by decide +kernel
  have hx1 : X ≤ (shortTerms + 1) * unitOne := le_trans hX (le_trans hTX (Nat.mul_le_mul_right _ (by decide)))
  have hs := sinSeries_error unitOne_pos hx1
  have hc := cosSeries_error unitOne_pos hx1
  have ps := sinSeries_pos unitOne_pos X shortTerms
  have pc := cosSeries_pos unitOne_pos X shortTerms
  rw [unitOne_real] at hs hc
  unfold tanSeries
  generalize sinSeries unitOne X shortTerms = s at hs ps
  generalize cosSeries unitOne X shortTerms = c at hc pc
  obtain ⟨sn, sd⟩ := s
  obtain ⟨cn, cd⟩ := c
  simp only at hs hc ps pc ⊢
  have hsd : (0 : ℝ) < sd := by exact_mod_cast ps
  have hcd : (0 : ℝ) < cd := by exact_mod_cast pc
  have hXR : (0 : ℝ) < X := by exact_mod_cast h0
  have hy0 : 0 < (X : ℝ) / unitR := div_pos hXR hU
  have hyt : (X : ℝ) / unitR ≤ 11952927 / 2 ^ 23 := by
    have : (X : ℝ) ≤ tanDomainMag := by exact_mod_cast hX
    rw [div_le_iff₀ hU]
    refine le_trans this (le_of_eq ?_)
    unfold tanDomainMag unitR; push_cast; norm_num
  have hX' : (X : ℝ) = unitR * ((X : ℝ) / unitR) := by field_simp
  generalize hy : (X : ℝ) / unitR = y at *
  have hy2 : y ≤ 2 := by refine le_trans hyt (by norm_num)
  have hy14 : y ≤ 1.4249 := by refine le_trans hyt (by norm_num)
  have hsp := sharp_pow hy0.le hy2
  have hs : |(sn : ℝ) / sd - unitR * Real.sin y| ≤ unitR * (y / 2 ^ 164) := le_trans hs (mul_le_mul_of_nonneg_left hsp hU.le)
  have hc : |(cn : ℝ) / cd - Real.cos y| ≤ y / 2 ^ 164 := le_trans hc hsp
  have hpi := Real.pi_gt_d2
  have hpi4 := Real.pi_le_four
  have hpi3 : Real.pi < 3.15 := Real.pi_lt_d2
  have hC : 1 / 16 ≤ Real.cos y := by
    rw [← Real.sin_pi_div_two_sub]
    have h := Real.mul_le_sin (x := Real.pi / 2 - y) (by norm_num at hpi hy14; linarith) (by linarith)
    refine le_trans ?_ h
    rw [div_mul_eq_mul_div, le_div_iff₀ Real.pi_pos]
    norm_num at hpi hy14 hpi3; linarith
  have hC1 := Real.cos_le_one y
  have hS1 := Real.sin_le_one y
  have hS : y / 2 ≤ Real.sin y := by
    have h := Real.mul_le_sin (x := y) hy0.le (by norm_num at hpi hy14; linarith)
    refine le_trans ?_ h
    rw [div_mul_eq_mul_div, le_div_iff₀ Real.pi_pos]
    have : y / 2 * Real.pi ≤ y / 2 * 4 := mul_le_mul_of_nonneg_left hpi4 (by linarith)
    linarith
  have hSy : Real.sin y ≤ y := Real.sin_le hy0.le
  generalize hsv : (sn : ℝ) / sd = sv at *
  generalize hcv : (cn : ℝ) / cd = cv at *
  have hsv' : (sn : ℝ) = sv * sd := by rw [← hsv]; field_simp
  have hcv' : (cn : ℝ) = cv * cd := by rw [← hcv]; field_simp
  rw [abs_le] at hs hc
  have hz : y / 2 ^ 164 ≤ y / 1024 := by
    apply div_le_div_of_nonneg_left hy0.le (by norm_num) (by norm_num)
  have hsvp : 0 < sv := by
    have h1 : unitR * (y / 2) ≤ unitR * Real.sin y := mul_le_mul_of_nonneg_left hS hU.le
    have h2 : unitR * (y / 2 ^ 164) ≤ unitR * (y / 1024) := mul_le_mul_of_nonneg_left hz hU.le
    have h3 : 0 < unitR * y := mul_pos hU hy0
    have h4 : unitR * (y / 2) = unitR * y / 2 := by ring
    have h5 : unitR * (y / 1024) = unitR * y / 1024 := by ring
    linarith [hs.1]
  have hcvp : 1 / 32 ≤ cv := by
    have := hc.1
    norm_num at hy2 ⊢ ; linarith
  have hsn : 0 < sn := by
    have : (0 : ℝ) < sn := by rw [hsv']; exact mul_pos hsvp hsd
    exact_mod_cast this
  have hcn : 0 < cn := by
    have : (0 : ℝ) < cn := by rw [hcv']; exact mul_pos (by linarith) hcd
    exact_mod_cast this
  refine ⟨Nat.mul_pos (Int.natAbs_pos.mpr hsn.ne') pc, Nat.mul_pos ps (Int.natAbs_pos.mpr hcn.ne'), ?_, hC, hy14⟩
  have e1 : ((sn.natAbs : ℝ)) = sv * sd := by
    rw [← hsv', Nat.cast_natAbs, abs_of_pos hsn]
  have e2 : ((cn.natAbs : ℝ)) = cv * cd := by
    rw [← hcv', Nat.cast_natAbs, abs_of_pos hcn]
  push_cast
  rw [e1, e2]
  have hcv0 : 0 < cv := by linarith
  have hC0 : 0 < Real.cos y := by linarith
  have e3 : sv * sd * cd / (sd * (cv * cd)) = sv / cv := by field_simp
  rw [e3, Real.tan_eq_sin_div_cos]
  have e4 : sv / cv - unitR * (Real.sin y / Real.cos y)
      = ((sv - unitR * Real.sin y) * Real.cos y + unitR * Real.sin y * (Real.cos y - cv)) / (cv * Real.cos y) := by
    field_simp; ring
  rw [e4, abs_div, abs_of_pos (mul_pos hcv0 hC0), div_le_iff₀ (mul_pos hcv0 hC0)]
  have hδ : 0 ≤ y / 2 ^ 164 := by positivity
  have b1 : |(sv - unitR * Real.sin y) * Real.cos y| ≤ unitR * (y / 2 ^ 164) := by
    rw [abs_mul, abs_of_pos hC0]
    have : |sv - unitR * Real.sin y| ≤ unitR * (y / 2 ^ 164) := abs_le.mpr hs
    calc _ ≤ unitR * (y / 2 ^ 164) * 1 := mul_le_mul this hC1 hC0.le (mul_nonneg hU.le hδ)
      _ = _ := mul_one _
  have b2 : |unitR * Real.sin y * (Real.cos y - cv)| ≤ unitR * (y / 2 ^ 164) := by
    have hS0 : 0 ≤ Real.sin y := by linarith
    rw [abs_mul, abs_of_nonneg (mul_nonneg hU.le hS0)]
    have h1 : |Real.cos y - cv| ≤ y / 2 ^ 164 := by rw [abs_sub_comm]; exact abs_le.mpr hc
    have h2 : unitR * Real.sin y ≤ unitR := by
      calc _ ≤ unitR * 1 := mul_le_mul_of_nonneg_left hS1 hU.le
        _ = unitR := mul_one _
    exact mul_le_mul h2 h1 (abs_nonneg _) hU.le
  have b3 := abs_add_le ((sv - unitR * Real.sin y) * Real.cos y) (unitR * Real.sin y * (Real.cos y - cv))
  have hcc : 1 / 512 ≤ cv * Real.cos y :=
    le_of_eq_of_le (by norm_num) (mul_le_mul hcvp hC (by norm_num) hcv0.le : (1 : ℝ) / 32 * (1 / 16) ≤ _)
  have hXm : (X : ℝ) / 2 ^ 154 * (1 / 512) ≤ X / 2 ^ 154 * (cv * Real.cos y) :=
    mul_le_mul_of_nonneg_left hcc (by positivity)
  have hfin : unitR * (y / 2 ^ 164) + unitR * (y / 2 ^ 164) ≤ (X : ℝ) / 2 ^ 154 * (1 / 512) := by
    rw [hX', ← mul_div_assoc]
    have : 0 ≤ unitR * y := mul_nonneg hU.le hy0.le
    generalize unitR * y = z at *
    have e5 : z / 2 ^ 164 + z / 2 ^ 164 = z / 2 ^ 154 * (1 / 512) := by
      rw [show (2 : ℝ) ^ 164 = 2 ^ 154 * 1024 by norm_num]; field_simp; ring
    exact e5.le
  exact le_trans b3 (le_trans (add_le_add b1 b2) (le_trans hfin hXm))
/-- TAN_ERR less the unit left for the series. -/
def tanRoom : Nat := 2 ^ 126 - 1
theorem tanReaches_eq (num den m : Nat) : tanReaches num den m =
    if wordMag (m - 1) * den * unitOne < num * (unitOne - tanRoom) then true
    else if num * (unitOne + tanRoom) < wordMag m * den * unitOne then false
    else decide (((midBelow m : Int) * 2 ^ 63 + Config.params.tanBias m) * den ≤ (num : Int) * 2 ^ 64) := rfl

/-- A step that is reached stays reached as the tangent rises (R172 (T2)). -/
theorem tanReaches_mono {n d n' d' m : Nat} (hd : 0 < d) (hd' : 0 < d') (h : n * d' ≤ n' * d)
    (hr : tanReaches n d m = true) : tanReaches n' d' m = true := by
  rw [tanReaches_eq] at hr ⊢
  have c1 : wordMag (m - 1) * d * unitOne < n * (unitOne - tanRoom) → wordMag (m - 1) * d' * unitOne < n' * (unitOne - tanRoom) := by
    intro h1
    have h2 := Nat.mul_lt_mul_of_pos_right h1 hd'
    have h3 := Nat.mul_le_mul_right (unitOne - tanRoom) h
    have h4 : (wordMag (m - 1) * d' * unitOne) * d < n' * (unitOne - tanRoom) * d := by
      calc _ = wordMag (m - 1) * d * unitOne * d' := by ring
        _ < _ := h2
        _ = n * d' * (unitOne - tanRoom) := by ring
        _ ≤ _ := h3
        _ = _ := by ring
    exact lt_of_mul_lt_mul_right h4 (Nat.zero_le _)
  by_cases k1 : wordMag (m - 1) * d' * unitOne < n' * (unitOne - tanRoom)
  · rw [if_pos k1]
  · rw [if_neg k1]
    rw [if_neg (fun q => k1 (c1 q))] at hr
    by_cases k2 : n * (unitOne + tanRoom) < wordMag m * d * unitOne
    · rw [if_pos k2] at hr; exact absurd hr (by decide)
    · rw [if_neg k2] at hr
      have k3 : ¬n' * (unitOne + tanRoom) < wordMag m * d' * unitOne := by
        intro q
        apply k2
        have h2 := Nat.mul_lt_mul_of_pos_right q hd
        have h3 := Nat.mul_le_mul_right (unitOne + tanRoom) h
        have h4 : n * (unitOne + tanRoom) * d' < (wordMag m * d * unitOne) * d' := by
          calc _ = n * d' * (unitOne + tanRoom) := by ring
            _ ≤ _ := h3
            _ = n' * (unitOne + tanRoom) * d := by ring
            _ < _ := h2
            _ = _ := by ring
        exact lt_of_mul_lt_mul_right h4 (Nat.zero_le _)
      rw [if_neg k3, decide_eq_true_eq]
      rw [decide_eq_true_eq] at hr
      generalize ((midBelow m : Int) * 2 ^ 63 + Config.params.tanBias m) = B at hr ⊢
      have hi : (n : Int) * d' ≤ n' * d := by exact_mod_cast h
      have hdI : (0 : Int) < d := by exact_mod_cast hd
      have hdI' : (0 : Int) < d' := by exact_mod_cast hd'
      have h5 : B * d' * d ≤ n' * 2 ^ 64 * d := by
        calc B * d' * d = B * d * d' := by ring
          _ ≤ n * 2 ^ 64 * d' := mul_le_mul_of_nonneg_right hr hdI'.le
          _ = n * d' * 2 ^ 64 := by ring
          _ ≤ n' * d * 2 ^ 64 := mul_le_mul_of_nonneg_right hi (by positivity)
          _ = _ := by ring
      exact le_of_mul_le_mul_right h5 hdI

/-- An operand of the domain of tan32 is a zero or positive, and at most 1.4249. -/
theorem tan_domain {x : F32} (h0 : fle fZero x = true) (h1 : fle x fTanDomain = true) :
    (isZero x = true ∨ (f32Sign x = false ∧ 0 < fixMag x)) ∧ fixMag x ≤ tanDomainMag ∧ isNaN x = false := by
  have k0 := (fle_iff _ _).mp h0
  have k1 := (fle_iff _ _).mp h1
  have hn : isNaN x = false := by rw [Bool.eq_false_iff, ne_eq, isNaN_iff]; omega
  have v0 := (fle_value (by decide) hn).mp h0
  have v1 := (fle_value hn (by decide)).mp h1
  have l0 : fixVal fZero = 0 := by decide
  have l1 : fixVal fTanDomain = (tanDomainMag : Int) := by decide +kernel
  rw [l0] at v0; rw [l1] at v1
  have hv : fixVal x = if f32Sign x then -(fixMag x : Int) else (fixMag x : Int) := rfl
  rw [hv] at v0 v1
  have hz : f32Mag x = 0 ↔ fixMag x = 0 := by
    rw [fixMag_eq]; have z : magVal 0 = 0 := rfl
    constructor
    · intro h; rw [h, z]
    · intro h; exact magVal_strictMono.injective (by rw [h, z])
  by_cases hX : fixMag x = 0
  · exact ⟨.inl ((isZero_iff x).mpr (hz.mpr hX)), by omega, hn⟩
  · cases hs : f32Sign x
    · rw [hs] at v0 v1; simp at v0 v1; exact ⟨.inr ⟨rfl, by omega⟩, by exact_mod_cast v1, hn⟩
    · rw [hs] at v0 v1; simp at v0 v1; omega

/-- The word of the largest value of tan32. -/
def tanMaxWord : Nat := 0x40D9EB85
theorem tanMaxWord_val : magVal tanMaxWord = 14281605 * 2 ^ 128 := by decide +kernel

/-- The tangent series stays below the largest value of tan32. -/
theorem tanSeries_top {X : Nat} (h0 : 0 < X) (hX : X ≤ tanDomainMag) :
    ((tanSeries X).1 : ℝ) / (tanSeries X).2 ≤ 14281605 * 2 ^ 128 := by
  have hT0 : 0 < tanDomainMag := by decide +kernel
  obtain ⟨-, -, b, -, -⟩ := tanSeries_near h0 hX
  obtain ⟨-, d1, b1, c1, e1⟩ := tanSeries_near hT0 (le_refl tanDomainMag)
  have hU := unitR_pos
  have hpi := Real.pi_gt_d2
  have hmono : Real.tan ((X : ℝ) / unitR) ≤ Real.tan ((tanDomainMag : ℝ) / unitR) := by
    rcases Nat.lt_or_eq_of_le hX with h | h
    · refine (Real.tan_lt_tan_of_nonneg_of_lt_pi_div_two (by positivity) ?_ ?_).le
      · norm_num at e1 hpi; linarith
      · exact div_lt_div_of_pos_right (by exact_mod_cast h) hU
    · rw [h]
  have hnum : (tanSeries tanDomainMag).1 * 2 ≤ (14281605 * 2 ^ 129 - 4) * (tanSeries tanDomainMag).2 := by decide +kernel
  have hd : (0 : ℝ) < (tanSeries tanDomainMag).2 := by exact_mod_cast d1
  have hN : ((tanSeries tanDomainMag).1 : ℝ) / (tanSeries tanDomainMag).2 ≤ 14281605 * 2 ^ 128 - 2 := by
    rw [div_le_iff₀ hd]
    have h := Nat.cast_le (α := ℝ).mpr hnum
    push_cast at h
    generalize ((tanSeries tanDomainMag).1 : ℝ) = a at *
    generalize ((tanSeries tanDomainMag).2 : ℝ) = b at *
    norm_num at h ⊢
    linarith
  have hXT : (X : ℝ) ≤ tanDomainMag := by exact_mod_cast hX
  have hTs : (tanDomainMag : ℝ) / 2 ^ 154 ≤ 1 := by unfold tanDomainMag; push_cast; norm_num
  have hXs : (X : ℝ) / 2 ^ 154 ≤ 1 := le_trans (div_le_div_of_nonneg_right hXT (by positivity)) hTs
  rw [abs_le] at b b1
  have := mul_le_mul_of_nonneg_left hmono hU.le
  linarith [b.2, b1.1]

/-- Neighbouring normal magnitudes differ by at most one part in 2^23. -/
theorem magVal_step_rel {m : Nat} (h : 2 ^ 23 ≤ m) : magVal (m + 1) * 2 ^ 23 ≤ magVal m * (2 ^ 23 + 1) := by
  obtain ⟨e, f, hf, rfl⟩ : ∃ e f, f < 2 ^ 23 ∧ m = (e + 1) * 2 ^ 23 + f :=
    ⟨m / 2 ^ 23 - 1, m % 2 ^ 23, Nat.mod_lt _ (by norm_num), by omega⟩
  have hstep : magVal ((e + 1) * 2 ^ 23 + f + 1) = magVal ((e + 1) * 2 ^ 23 + f) + 2 ^ e := by
    rw [magVal_fields e hf]
    by_cases hc : f + 1 < 2 ^ 23
    · rw [add_assoc, magVal_fields e hc]; ring
    · have hf' : f + 1 = 2 ^ 23 := by omega
      have : (e + 1) * 2 ^ 23 + f + 1 = (e + 1 + 1) * 2 ^ 23 + 0 := by rw [add_assoc, hf']; ring
      rw [this, magVal_fields _ (Nat.two_pow_pos 23)]
      have : 2 ^ 23 + 2 ^ 23 = 2 ^ 23 + f + 1 := by rw [add_assoc, hf']
      calc (2 ^ 23 + 0) * 2 ^ (e + 1) = (2 ^ 23 + 2 ^ 23) * 2 ^ e := by ring
        _ = (2 ^ 23 + f + 1) * 2 ^ e := by rw [this]
        _ = _ := by ring
  rw [hstep, add_mul, mul_add, mul_one]
  refine Nat.add_le_add_left ?_ _
  rw [magVal_fields e hf, Nat.mul_comm]
  exact Nat.mul_le_mul_right _ (Nat.le_add_right _ _)


/-- The tangent series of a small operand is close to the operand. -/
theorem tanSeries_small {X : Nat} (h0 : 0 < X) (hX : X ≤ tanDomainMag) (hbig : (X : ℝ) ≤ 2 ^ 40) :
    ((tanSeries X).1 : ℝ) / (tanSeries X).2 ≤ X * (1 + 1 / 2 ^ 37) := by
  have hU := unitR_pos
  obtain ⟨-, -, hb, -, -⟩ := tanSeries_near h0 hX
  have hXR : (0 : ℝ) < X := by exact_mod_cast h0
  have hb' := (abs_le.mp hb).2
  generalize ((tanSeries X).1 : ℝ) / (tanSeries X).2 = N at *
  have hXU : (X : ℝ) / unitR ≤ 1 / 2 ^ 109 := by
    rw [div_le_div_iff₀ hU (by positivity)]; unfold unitR
    have : (2 : ℝ) ^ 40 * 2 ^ 109 = 1 * 2 ^ 149 := by norm_num
    rw [← this]; exact mul_le_mul_of_nonneg_right hbig (by positivity)
  have hy0 : 0 < (X : ℝ) / unitR := div_pos hXR hU
  have hcos : 1 - ((X : ℝ) / unitR) ^ 2 / 2 ≤ Real.cos ((X : ℝ) / unitR) := Real.one_sub_sq_div_two_le_cos
  have hsin : Real.sin ((X : ℝ) / unitR) ≤ (X : ℝ) / unitR := Real.sin_le hy0.le
  have hXe : unitR * ((X : ℝ) / unitR) = X := by field_simp
  generalize (X : ℝ) / unitR = y at *
  have hc2 : 1 - 1 / 2 ^ 40 ≤ Real.cos y := by
    refine le_trans ?_ hcos
    have : y ^ 2 ≤ 1 / 2 ^ 40 := by
      calc y ^ 2 ≤ (1 / 2 ^ 109) ^ 2 := by gcongr
        _ ≤ _ := by norm_num
    norm_num at this ⊢; linarith
  have htan : Real.tan y ≤ y * (1 + 1 / 2 ^ 38) := by
    have hc0 : 0 < Real.cos y := by norm_num at hc2; linarith
    rw [Real.tan_eq_sin_div_cos, div_le_iff₀ hc0]
    have : 1 ≤ (1 + 1 / 2 ^ 38) * Real.cos y := by norm_num at hc2 ⊢; linarith
    calc Real.sin y ≤ y * 1 := by rw [mul_one]; exact hsin
      _ ≤ y * ((1 + 1 / 2 ^ 38) * Real.cos y) := mul_le_mul_of_nonneg_left this hy0.le
      _ = _ := by ring
  have h1 := mul_le_mul_of_nonneg_left htan hU.le
  rw [← mul_assoc, hXe] at h1
  have h3 : N ≤ X * (1 + 1 / 2 ^ 38) + X / 2 ^ 154 := by linarith
  refine le_trans h3 ?_
  have h4 : (X : ℝ) / 2 ^ 154 ≤ X / 2 ^ 38 := div_le_div_of_nonneg_left hXR.le (by positivity) (by norm_num)
  have e9 : (X : ℝ) * (1 + 1 / 2 ^ 38) + X / 2 ^ 38 = X * (1 + 1 / 2 ^ 37) := by ring
  exact le_of_le_of_eq (add_le_add_right h4 _) e9

/-- The tangent is not below its operand, nor is its series but for the error. -/
theorem tanSeries_low {X : Nat} (h0 : 0 < X) (hX : X ≤ tanDomainMag) :
    (X : ℝ) * (1 - 1 / 2 ^ 154) ≤ ((tanSeries X).1 : ℝ) / (tanSeries X).2 := by
  have hU := unitR_pos
  obtain ⟨-, -, hb, -, hy⟩ := tanSeries_near h0 hX
  have hb' := (abs_le.mp hb).1
  have hT : (X : ℝ) / unitR ≤ Real.tan ((X : ℝ) / unitR) := by
    refine Real.le_tan (by positivity) ?_
    have hpi := Real.pi_gt_d2
    norm_num at hy hpi; linarith
  have h1 := mul_le_mul_of_nonneg_left hT hU.le
  have h2 : unitR * ((X : ℝ) / unitR) = X := by field_simp
  rw [h2] at h1
  have e : (X : ℝ) * (1 - 1 / 2 ^ 154) = X - X / 2 ^ 154 := by ring
  rw [e]; linarith

theorem ratio_bounds : (1 : ℝ) / 2 ^ 24 ≤ (tanRoom : ℝ) / unitR ∧ (tanRoom : ℝ) / unitR ≤ 1 / 2 ^ 23 := by
  have hU := unitR_pos
  have eE : (tanRoom : ℝ) = 2 ^ 126 - 1 := by unfold tanRoom; push_cast; norm_num
  rw [eE]
  constructor
  · rw [div_le_div_iff₀ (by positivity) hU]; unfold unitR; norm_num
  · rw [div_le_div_iff₀ hU (by positivity)]; unfold unitR; norm_num

/-- When the word below is too low, the word itself is not too high. -/
theorem word_not_high {X k : Nat} (h0 : 0 < X) (hX : X ≤ tanDomainMag) {r : ℝ} (hr : 1 / 2 ^ 24 ≤ r) (hr2 : r ≤ 1 / 2 ^ 23)
    (h : (magVal k : ℝ) < ((tanSeries X).1 : ℝ) / (tanSeries X).2 * (1 - r)) :
    (magVal (k + 1) : ℝ) ≤ ((tanSeries X).1 : ℝ) / (tanSeries X).2 * (1 + r) := by
  have hlow := tanSeries_low h0 hX
  have hst := tanSeries_small h0 hX
  have hXR : (0 : ℝ) < X := by exact_mod_cast h0
  generalize ((tanSeries X).1 : ℝ) / (tanSeries X).2 = N at *
  have hN0 : 0 ≤ N := by
    refine le_trans (mul_nonneg hXR.le ?_) hlow
    norm_num
  by_cases hk : 2 ^ 23 ≤ k
  · have hrel := Nat.cast_le (α := ℝ).mpr (magVal_step_rel hk)
    push_cast at hrel
    have h2 : (magVal (k + 1) : ℝ) ≤ magVal k * (1 + 1 / 2 ^ 23) := by
      norm_num at hrel ⊢; linarith
    refine le_trans h2 (le_trans (mul_le_mul_of_nonneg_right h.le (by positivity)) ?_)
    rw [mul_assoc]
    refine mul_le_mul_of_nonneg_left ?_ hN0
    norm_num at hr ⊢; linarith
  · have hk24 : k + 1 < 2 ^ 24 := by omega
    rw [magVal_small (Nat.lt_of_succ_lt hk24)] at h
    rw [magVal_small hk24]
    push_cast
    by_cases hbig : 2 ^ 24 ≤ N
    · have : 1 ≤ N * r + N * r := by
        have : 2 ^ 24 * (1 / 2 ^ 24 : ℝ) ≤ N * r := mul_le_mul hbig hr (by norm_num) hN0
        norm_num at this; linarith
      linarith
    · have hX2 : (X : ℝ) ≤ 2 ^ 40 := by
        have : (X : ℝ) * (1 / 2) ≤ X * (1 - 1 / 2 ^ 154) := mul_le_mul_of_nonneg_left (by norm_num) hXR.le
        have h3 : N < 2 ^ 24 := not_le.mp hbig
        have h6 := le_trans this hlow
        have h7 : (2 : ℝ) ^ 24 * 2 ≤ 2 ^ 40 := by norm_num
        linarith
      have hNt := hst hX2
      have hr1 : 0 ≤ 1 - r := by
        have : (1 : ℝ) / 2 ^ 23 ≤ 1 := by norm_num
        linarith
      have hN1 : N * (1 - r) ≤ X := by
        refine le_trans (mul_le_mul_of_nonneg_right hNt hr1) ?_
        rw [mul_assoc]
        refine le_trans (mul_le_mul_of_nonneg_left (b := (1 + 1 / 2 ^ 37 : ℝ) * (1 - r)) (c := 1) ?_ hXR.le) (le_of_eq (mul_one _))
        norm_num at hr ⊢; linarith
      have hkX : (k : ℝ) < X := lt_of_lt_of_le h hN1
      have hkX' : k + 1 ≤ X := by exact_mod_cast hkX
      have hkX2 : (k : ℝ) + 1 ≤ X := by exact_mod_cast hkX'
      refine le_trans hkX2 ?_
      have h5 : (1 : ℝ) ≤ (1 - 1 / 2 ^ 154) * (1 + r) := by norm_num at hr ⊢; linarith
      calc (X : ℝ) = X * 1 := (mul_one _).symm
        _ ≤ X * ((1 - 1 / 2 ^ 154) * (1 + r)) := mul_le_mul_of_nonneg_left h5 hXR.le
        _ = X * (1 - 1 / 2 ^ 154) * (1 + r) := by ring
        _ ≤ N * (1 + r) := mul_le_mul_of_nonneg_right hlow (by
            have : (0 : ℝ) ≤ 1 / 2 ^ 24 := by norm_num
            linarith)

/-- What the tangent unit searches by. -/
def tanPred (X m : Nat) : Bool := decide (m ≤ fTanMax.toNat) && tanReaches (tanSeries X).1 (tanSeries X).2 m

theorem tanUnit_eq (x : F32) : tanUnit x = BitVec.ofNat 32 (searchBits (tanPred (fixMag x)) 31 0) := rfl

theorem fTanMax_nat : fTanMax.toNat = tanMaxWord := by decide

theorem tanPred_search {X : Nat} (h0 : 0 < X) (hX : X ≤ tanDomainMag) :
    tanPred X (searchBits (tanPred X) 31 0) = true ∧ tanPred X (searchBits (tanPred X) 31 0 + 1) = false := by
  obtain ⟨n0, d0, -⟩ := tanSeries_near h0 hX
  apply searchBits_spec
  · unfold tanPred
    rw [tanReaches_eq]
    have : wordMag (0 - 1) * (tanSeries X).2 * unitOne < (tanSeries X).1 * (unitOne - tanRoom) := by
      have e : wordMag (0 - 1) = 0 := rfl
      have hpos : 0 < unitOne - tanRoom := by decide +kernel
      rw [e, Nat.zero_mul, Nat.zero_mul]; exact Nat.mul_pos n0 hpos
    rw [if_pos this]; simp
  · unfold tanPred
    have : ¬(0 + 2 ^ 31 ≤ fTanMax.toNat) := by rw [fTanMax_nat]; decide
    rw [decide_eq_false this, Bool.false_and]

/-- the word found is within E/unitR of the series -/
theorem tanPred_near {X m : Nat} (h0 : 0 < X) (hX : X ≤ tanDomainMag) (h1 : tanPred X m = true) (h2 : tanPred X (m + 1) = false) :
    m ≤ tanMaxWord ∧ |(magVal m : ℝ) - ((tanSeries X).1 : ℝ) / (tanSeries X).2|
        ≤ ((tanSeries X).1 : ℝ) / (tanSeries X).2 * (tanRoom / unitR) := by
  have hU := unitR_pos
  obtain ⟨n0, d0, -⟩ := tanSeries_near h0 hX
  have htop := tanSeries_top h0 hX
  have hup := fun k => word_not_high (k := k) h0 hX ratio_bounds.1 ratio_bounds.2
  have hrb := ratio_bounds
  unfold tanPred at h1 h2
  rw [fTanMax_nat] at h1 h2
  simp only [Bool.and_eq_true, Bool.and_eq_false_iff, decide_eq_true_eq, decide_eq_false_iff_not] at h1 h2
  obtain ⟨hm, hr⟩ := h1
  refine ⟨hm, ?_⟩
  have hm31 : m + 1 < 2 ^ 31 := by unfold tanMaxWord at hm; omega
  have hEU : tanRoom < unitOne := by decide +kernel
  have hsub : ((unitOne - tanRoom : Nat) : ℝ) = unitR - tanRoom := by rw [Nat.cast_sub hEU.le, unitOne_real]
  have hadd : ((unitOne + tanRoom : Nat) : ℝ) = unitR + tanRoom := by rw [Nat.cast_add, unitOne_real]
  generalize (tanSeries X).1 = n at *
  generalize (tanSeries X).2 = d at *
  have hd : (0 : ℝ) < d := by exact_mod_cast d0
  have hnR : (0 : ℝ) < n := by exact_mod_cast n0
  have hnN : (n : ℝ) = (n : ℝ) / d * d := by field_simp
  generalize (n : ℝ) / d = N at *
  have hN0 : 0 < N := by
    by_contra hc
    have : N * d ≤ 0 := mul_nonpos_of_nonpos_of_nonneg (not_lt.mp hc) hd.le
    linarith
  have eM : N * (1 - tanRoom / unitR) = N * (unitR - tanRoom) / unitR := by field_simp
  have eP : N * (1 + tanRoom / unitR) = N * (unitR + tanRoom) / unitR := by field_simp
  rw [tanReaches_eq] at hr
  have low : N * (1 - tanRoom / unitR) ≤ magVal m := by
    by_cases hl : m = tanMaxWord
    · rw [hl, tanMaxWord_val]
      have h3 : N * (1 - tanRoom / unitR) ≤ N := by
        have : 0 ≤ N * ((tanRoom : ℝ) / unitR) := by positivity
        linarith
      refine le_trans h3 (le_of_le_of_eq htop ?_)
      push_cast; norm_num
    · have hn' : tanReaches n d (m + 1) = false := by
        rcases h2 with h2 | h2
        · omega
        · exact h2
      rw [tanReaches_eq] at hn'
      have hk : ¬wordMag (m + 1 - 1) * d * unitOne < n * (unitOne - tanRoom) := by
        intro k; rw [if_pos k] at hn'; exact absurd hn' (by decide)
      rw [Nat.add_sub_cancel, wordMag_eq (by omega), not_lt] at hk
      have hk' : (n : ℝ) * (unitR - tanRoom) ≤ magVal m * d * unitR := by
        have := Nat.cast_le (α := ℝ).mpr hk
        rwa [Nat.cast_mul, Nat.cast_mul, Nat.cast_mul, hsub, unitOne_real] at this
      rw [hnN] at hk'
      rw [eM, div_le_iff₀ hU]
      have : N * (unitR - tanRoom) * d ≤ magVal m * unitR * d := by linarith
      exact le_of_mul_le_mul_right this hd
  have high : (magVal m : ℝ) ≤ N * (1 + tanRoom / unitR) := by
    by_cases k1 : wordMag (m - 1) * d * unitOne < n * (unitOne - tanRoom)
    · rcases Nat.eq_zero_or_pos m with hm0 | hm0
      · rw [hm0]; have : magVal 0 = 0 := rfl
        rw [this]; push_cast; positivity
      obtain ⟨k, rfl⟩ := Nat.exists_eq_add_of_le' hm0
      rw [Nat.add_sub_cancel, wordMag_eq (by omega)] at k1
      refine hup k ?_
      have := Nat.cast_lt (α := ℝ).mpr k1
      rw [Nat.cast_mul, Nat.cast_mul, Nat.cast_mul, hsub, unitOne_real, hnN] at this
      rw [eM, lt_div_iff₀ hU]
      have h3 : magVal k * unitR * d < N * (unitR - tanRoom) * d := by linarith
      exact lt_of_mul_lt_mul_right h3 hd.le
    · rw [if_neg k1] at hr
      have k2 : ¬n * (unitOne + tanRoom) < wordMag m * d * unitOne := by
        intro k; rw [if_pos k] at hr; exact absurd hr (by decide)
      rw [wordMag_eq (by omega), not_lt] at k2
      have := Nat.cast_le (α := ℝ).mpr k2
      rw [Nat.cast_mul, Nat.cast_mul, Nat.cast_mul, hadd, unitOne_real, hnN] at this
      rw [eP, le_div_iff₀ hU]
      have h3 : magVal m * unitR * d ≤ N * (unitR + tanRoom) * d := by linarith
      exact le_of_mul_le_mul_right h3 hd
  rw [abs_le]; constructor <;> linarith

/-- The tangent unit is within TAN_ERR of the tangent (R172 (T3)). -/
theorem tanUnit_near {x : F32} (h0 : 0 < fixMag x) (hX : fixMag x ≤ tanDomainMag) :
    ∃ m, tanUnit x = BitVec.ofNat 32 m ∧ m ≤ tanMaxWord ∧ m = searchBits (tanPred (fixMag x)) 31 0 ∧
      |(magVal m : ℝ) - unitR * Real.tan ((fixMag x : ℝ) / unitR)| ≤ unitR * Real.tan ((fixMag x : ℝ) / unitR) / 2 ^ 23 := by
  obtain ⟨h1, h2⟩ := tanPred_search h0 hX
  obtain ⟨h3, h4⟩ := tanPred_near h0 hX h1 h2
  refine ⟨_, tanUnit_eq x, h3, rfl, ?_⟩
  obtain ⟨-, -, hb, -, hy⟩ := tanSeries_near h0 hX
  generalize searchBits (tanPred (fixMag x)) 31 0 = m at *
  have hU := unitR_pos
  have hXR : (0 : ℝ) < fixMag x := by exact_mod_cast h0
  have hT : (fixMag x : ℝ) / unitR ≤ Real.tan ((fixMag x : ℝ) / unitR) := by
    refine Real.le_tan (by positivity) ?_
    have hpi := Real.pi_gt_d2
    norm_num at hy hpi; linarith
  have h5 := mul_le_mul_of_nonneg_left hT hU.le
  have h6 : unitR * ((fixMag x : ℝ) / unitR) = fixMag x := by field_simp
  rw [h6] at h5
  generalize ((tanSeries (fixMag x)).1 : ℝ) / (tanSeries (fixMag x)).2 = N at *
  generalize Real.tan ((fixMag x : ℝ) / unitR) = T at *
  generalize (fixMag x : ℝ) = X at *
  set W := unitR * T with hW
  have eE : (tanRoom : ℝ) / unitR = 1 / 2 ^ 23 - 1 / 2 ^ 149 := by
    have : (tanRoom : ℝ) = 2 ^ 126 - 1 := by unfold tanRoom; push_cast; norm_num
    rw [this]; unfold unitR; norm_num
  rw [eE] at h4
  rw [abs_le] at h4 hb ⊢
  have hX154 : X / 2 ^ 154 ≤ W / 2 ^ 154 := div_le_div_of_nonneg_right h5 (by positivity)
  have hW0 : 0 ≤ W := le_trans hXR.le h5
  generalize (magVal m : ℝ) = V at *
  have b1 : N ≤ W + W / 2 ^ 154 := by linarith [hb.2]
  have b2 : W - W / 2 ^ 154 ≤ N := by linarith [hb.1]
  norm_num at h4 b1 b2 ⊢
  constructor <;> nlinarith [h4.1, h4.2]

/-- The tangent rises at least as fast as its operand. -/
theorem le_tan_add_sub {a b : ℝ} (ha : 0 < a) (hb : 0 ≤ b) (hab : a + b < Real.pi / 2) :
    b ≤ Real.tan (a + b) - Real.tan a := by
  have hca : 0 < Real.cos a := Real.cos_pos_of_mem_Ioo ⟨by linarith, by linarith⟩
  have hcab : 0 < Real.cos (a + b) := Real.cos_pos_of_mem_Ioo ⟨by linarith, by linarith⟩
  have hcb : 0 < Real.cos b := Real.cos_pos_of_mem_Ioo ⟨by linarith, by linarith⟩
  have e : Real.tan (a + b) - Real.tan a = Real.sin b / (Real.cos (a + b) * Real.cos a) := by
    rw [Real.tan_eq_sin_div_cos, Real.tan_eq_sin_div_cos, div_sub_div _ _ hcab.ne' hca.ne', ← Real.sin_sub,
      add_sub_cancel_left]
  rw [e, le_div_iff₀ (mul_pos hcab hca)]
  have hle : Real.cos (a + b) * Real.cos a ≤ Real.cos b := by
    have h3 : Real.cos (a + b) ≤ Real.cos b := Real.cos_le_cos_of_nonneg_of_le_pi hb (by linarith) (by linarith)
    exact le_of_le_of_eq (mul_le_mul h3 (Real.cos_le_one a) hca.le hcb.le) (mul_one _)
  have htb : b * Real.cos b ≤ Real.sin b := by
    have := Real.le_tan hb (by linarith)
    rwa [Real.tan_eq_sin_div_cos, le_div_iff₀ hcb] at this
  exact le_trans (mul_le_mul_of_nonneg_left hle hb) htb

/-- The tangent series of a larger operand is not smaller. -/
theorem tanSeries_mono {X Y : Nat} (h0 : 0 < X) (h : X < Y) (hY : Y ≤ tanDomainMag) :
    (tanSeries X).1 * (tanSeries Y).2 ≤ (tanSeries Y).1 * (tanSeries X).2 := by
  have hX : X ≤ tanDomainMag := le_trans h.le hY
  obtain ⟨-, d0, b0, -, -⟩ := tanSeries_near h0 hX
  obtain ⟨-, d1, b1, -, c1⟩ := tanSeries_near (lt_trans h0 h) hY
  have hd0 : (0 : ℝ) < (tanSeries X).2 := by exact_mod_cast d0
  have hd1 : (0 : ℝ) < (tanSeries Y).2 := by exact_mod_cast d1
  have hU := unitR_pos
  rw [abs_le] at b0 b1
  have hlt : (X : ℝ) + 1 ≤ Y := by exact_mod_cast h
  have hx0 : (0 : ℝ) < X := by exact_mod_cast h0
  have hrise : (Y : ℝ) - X ≤ unitR * Real.tan ((Y : ℝ) / unitR) - unitR * Real.tan ((X : ℝ) / unitR) := by
    have e : (Y : ℝ) / unitR = (X : ℝ) / unitR + ((Y : ℝ) - X) / unitR := by ring
    have hyh : (X : ℝ) / unitR + ((Y : ℝ) - X) / unitR < Real.pi / 2 := by
      have hpi := Real.pi_gt_d2
      rw [← e]; norm_num at c1 hpi; linarith
    have h4 := mul_le_mul_of_nonneg_left
      (le_tan_add_sub (div_pos hx0 hU) (div_nonneg (by linarith) hU.le) hyh) hU.le
    rw [← e, mul_div_cancel₀ _ hU.ne', mul_sub] at h4
    exact h4
  have hT : ((tanDomainMag : Nat) : ℝ) / 2 ^ 154 ≤ 1 / 16 := by unfold tanDomainMag; push_cast; norm_num
  have hx154 : (X : ℝ) / 2 ^ 154 ≤ 1 / 16 :=
    le_trans (div_le_div_of_nonneg_right (by exact_mod_cast hX) (by positivity)) hT
  have hy154 : (Y : ℝ) / 2 ^ 154 ≤ 1 / 16 :=
    le_trans (div_le_div_of_nonneg_right (by exact_mod_cast hY) (by positivity)) hT
  have key : ((tanSeries X).1 : ℝ) / (tanSeries X).2 ≤ ((tanSeries Y).1 : ℝ) / (tanSeries Y).2 := by
    linarith [b0.2, b1.1]
  rw [div_le_div_iff₀ hd0 hd1] at key
  exact_mod_cast key

/-- The word the tangent unit finds for a larger operand is not smaller (R172 (T2)). -/
theorem tanPred_search_mono {X Y : Nat} (h0 : 0 < X) (h : X ≤ Y) (hY : Y ≤ tanDomainMag) :
    searchBits (tanPred X) 31 0 ≤ searchBits (tanPred Y) 31 0 := by
  rcases Nat.lt_or_eq_of_le h with hlt | rfl
  · refine searchBits_mono (fun k hk => ?_) 31 0
    unfold tanPred at hk ⊢
    rw [Bool.and_eq_true] at hk ⊢
    exact ⟨hk.1, tanReaches_mono (tanSeries_near h0 (le_trans h hY)).2.1 (tanSeries_near (lt_trans h0 hlt) hY).2.1
      (tanSeries_mono h0 hlt hY) hk.2⟩
  · exact le_refl _

end Sys2Proof.Machine
end

