-- ==== Sys2Proof/Tests/Slice0.lean ====
section
/-! SUPPORT. Tests whose expected values are the spec's examples and vectors (95_test_vectors.md, and the examples of the
section files), the smoke test of WellFormed, and for every statement with hypotheses a witness that meets them. -/

-- One proof at a time: an evaluation waits for every proof before it, each in a thread of its own.
set_option Elab.async false

namespace Sys2Proof.Tests

open Sys2Proof.Machine Sys2Proof.Claims

/-- One word of the next state, none where the outcome is no next state. -/
def after (r : Result) (f : State → Word) : Option Word :=
  match r with
  | .next t => some (f t)
  | .fault _ => none
  | .refused _ => none

/-- A quiet NaN for every draw. -/
def nans : Nat → F32 := fun _ => 0x7FC00000#32

/-- After PREPARE 44100.0, 64. -/
def base : State := { State.reset with fs := 0x472C4400#32, blockSize := 64, prepared := true }

/-- An envelope at a stage and a level, releasing over 44.1 samples. -/
def envelopeAt (st : EStage) (level : F32) : Envelope :=
  ⟨st, level, 0x3CB9C277#32, 0x3CB9C277#32, 0x3F000000#32, 0x42306667#32, 0x3BA87D4D#32, false⟩

/-- base with the first envelope at a stage and a level. -/
def enveloped (st : EStage) (level : F32) : State := setEnv 0 (envelopeAt st level) base

/-- base with the MODE of every operator set. -/
def inMode (mode : Word) : State :=
  { base with act := { base.act with op := Vector.replicate 6 { OpParams.zero with mode := mode } } }

/-- base with the voice sounding: both envelopes in sustain. -/
def sounding : State :=
  { setEnv 1 (envelopeAt .sustain 0x3F000000#32) (enveloped .sustain 0x3F000000#32) with vstate := .active }

/-- base with one STAGE word written. -/
def staged (a : Fin 164) (v : Word) : State := { base with stage := (Vector.replicate 164 0#32).set a.val v a.isLt }

/-- A state with one request. -/
def asked (r : Request) (s : State) : State := { s with requests := [r] }

/-! WellFormed smoke: each check with a term it refuses and a term it admits. -/

theorem smoke_opPass : (Instr.opPass 0 2).wellFormed = false ∧ (Instr.opPass 0 3).wellFormed = true := by decide
theorem smoke_busRead :
    (Instr.busRead 0x4000).wellFormed = false ∧ (Instr.busRead 0x3FFF).wellFormed = true := by decide
theorem smoke_busWrite :
    (Instr.busWrite 0x4000 0).wellFormed = false ∧ (Instr.busWrite 0x3FFF 0).wellFormed = true := by decide
theorem smoke_refuse :
    (Instr.refuse .cmdErr 9 0).wellFormed = false ∧ (Instr.refuse .argErr 13 0).wellFormed = false ∧
    (Instr.refuse .argErr 9 0).wellFormed = true := by decide

/-! Decoding: every word written out from R116 and R120 to R124. -/

theorem test_decode_commands :
    decode (.write 0 0b00000000_00000000_00000000_00000000#32) = .ok .nop ∧
    decode (.write 0 0b00000001_00000000_00000000_00000000#32) = .ok .prepare ∧
    decode (.write 0 0b00000010_10000000_00000000_00000001#32) = .ok (.canplay 0x800001) ∧
    decode (.write 0 0b00000011_00000000_00000000_01000101#32) = .ok (.startnote 69) ∧
    decode (.write 0 0b00000100_00000000_00000000_00000000#32) = .ok (.stopnote false) ∧
    decode (.write 0 0b00000100_00000000_00000000_00000001#32) = .ok (.stopnote true) ∧
    decode (.write 0 0b00000101_00000000_00000000_00000000#32) = .ok .setparams ∧
    decode (.write 0 0b00000110_00000000_00000000_00000000#32) = .ok .render ∧
    decode (.write 0 0b00000111_00000000_00000000_00000000#32) = .ok .isactive ∧
    decode (.write 0 0b00001000_00000000_00000000_01111111#32) = .ok (.ctrl 127) := by decide

/-- The refused words of V40. -/
theorem test_decode_refused :
    decodeCommand 0x00000001#32 = .error (.reservedBits 0x000000) ∧
    decodeCommand 0x01000001#32 = .error (.reservedBits 0x010000) ∧
    decodeCommand 0x03000080#32 = .error (.reservedBits 0x030000) ∧
    decodeCommand 0x04000002#32 = .error (.reservedBits 0x040000) ∧
    decodeCommand 0x08000080#32 = .error (.reservedBits 0x080000) ∧
    decodeCommand 0x09000000#32 = .error (.unknownOpcode 0x090000) ∧
    decodeCommand 0xFF000001#32 = .error (.unknownOpcode 0xFF0000) := by decide

theorem test_decode_modes :
    decode (.select (.mode 4) 0) = .ok (.opOsc 4) ∧ decode (.select (.mode 4) 1) = .ok (.opLpf 4) ∧
    decode (.select (.mode 4) 2) = .ok (.opComb 4) ∧ decode (.select (.mode 4) 3) = .ok (.opPass 4 3) ∧
    decode (.select (.mode 4) 0xFFFFFFFF) = .ok (.opPass 4 0xFFFFFFFF) := by decide

theorem test_decode_selectors :
    decode (.select (.wave 1) 0) = .ok (.waveSine 1) ∧ decode (.select (.wave 1) 1) = .ok (.waveTriangle 1) ∧
    decode (.select (.wave 1) 2) = .ok (.waveSaw 1) ∧ decode (.select (.wave 1) 3) = .ok (.waveSquare 1) ∧
    decode (.select (.wave 1) 4) = .error (.reservedSelector (.wave 1) 4) ∧
    decode (.select (.src 6) 0) = .ok (.srcLfo1 6) ∧ decode (.select (.src 6) 1) = .ok (.srcLfo2 6) ∧
    decode (.select (.src 6) 2) = .ok (.srcModwheel 6) ∧
    decode (.select (.src 6) 3) = .error (.reservedSelector (.src 6) 3) ∧
    decode (.select (.envsrc 5) 0) = .ok (.envsrcPrimary 5) ∧
    decode (.select (.envsrc 5) 1) = .ok (.envsrcSecondary 5) ∧
    decode (.select (.envsrc 5) 2) = .error (.reservedSelector (.envsrc 5) 2) := by decide

/-- Destination words 0 to 18 of R124. -/
def destTableLow : List (Word × (DestSite → Instr)) :=
  [(0#32, .destNone), (1#32, .destGain0), (2#32, .destGain1), (3#32, .destGain2), (4#32, .destGain3),
   (5#32, .destGain4), (6#32, .destGain5), (7#32, .destRatio0), (8#32, .destRatio1), (9#32, .destRatio2),
   (10#32, .destRatio3), (11#32, .destRatio4), (12#32, .destRatio5), (13#32, .destCtx1_0), (14#32, .destCtx1_1),
   (15#32, .destCtx1_2), (16#32, .destCtx1_3), (17#32, .destCtx1_4), (18#32, .destCtx1_5)]

/-- Destination words 19 to 36 of R124. -/
def destTableMid : List (Word × (DestSite → Instr)) :=
  [(19#32, .destCell00), (20#32, .destCell01), (21#32, .destCell02), (22#32, .destCell03), (23#32, .destCell04),
   (24#32, .destCell05), (25#32, .destCell10), (26#32, .destCell11), (27#32, .destCell12), (28#32, .destCell13),
   (29#32, .destCell14), (30#32, .destCell15), (31#32, .destCell20), (32#32, .destCell21), (33#32, .destCell22),
   (34#32, .destCell23), (35#32, .destCell24), (36#32, .destCell25)]

/-- Destination words 37 to 54 of R124. -/
def destTableHigh : List (Word × (DestSite → Instr)) :=
  [(37#32, .destCell30), (38#32, .destCell31), (39#32, .destCell32), (40#32, .destCell33), (41#32, .destCell34),
   (42#32, .destCell35), (43#32, .destCell40), (44#32, .destCell41), (45#32, .destCell42), (46#32, .destCell43),
   (47#32, .destCell44), (48#32, .destCell45), (49#32, .destCell50), (50#32, .destCell51), (51#32, .destCell52),
   (52#32, .destCell53), (53#32, .destCell54), (54#32, .destCell55)]

theorem test_decode_dest : ∀ p ∈ destTableLow ++ destTableMid ++ destTableHigh,
    decode (.select (.dest (.slot 7)) p.1) = .ok (p.2 (.slot 7)) := by decide
theorem test_decode_ddest : ∀ p ∈ destTableLow ++ destTableMid ++ destTableHigh,
    decode (.select (.dest (.direct 1)) p.1) = .ok (p.2 (.direct 1)) := by decide
theorem test_decode_dest_reserved :
    decode (.select (.dest (.slot 3)) 55) = .error (.reservedSelector (.dest (.slot 3)) 55) := by decide
theorem test_decode_bus :
    decode .reset = .ok .hwreset ∧ decode (.read 0x004) = .ok (.busRead 0x004) ∧
    decode (.write 0x131 7) = .ok (.busWrite 0x131 7) := by decide

/-! Arithmetic: V1 to V9. -/

theorem test_fadd :
    fadd 0 0x3F800000#32 0x33800000#32 = 0x3F800000#32 ∧ fadd 0 0x3F800000#32 0x33800001#32 = 0x3F800001#32 ∧
    fadd 0 0x3F800001#32 0x33800000#32 = 0x3F800002#32 ∧ fadd 0 0x00000000#32 0x80000000#32 = 0x00000000#32 ∧
    fadd 0x7FC00000#32 0x7F800000#32 0xFF800000#32 = 0x7FC00000#32 := by decide
theorem test_fmul :
    fmul 0 0x3DCCCCCD#32 0x3DCCCCCD#32 = 0x3C23D70B#32 ∧ fmul 0 0x00800000#32 0x3F000000#32 = 0x00400000#32 ∧
    fmul 0 0x7F7FFFFF#32 0x40000000#32 = 0x7F800000#32 ∧ fmul 0 0x80000000#32 0x40A00000#32 = 0x80000000#32 ∧
    fmul 0x7FC00000#32 0 0x7F800000#32 = 0x7FC00000#32 := by decide
theorem test_fdiv :
    fdiv 0 0x3F800000#32 0x40400000#32 = 0x3EAAAAAB#32 ∧ fdiv 0 0x3F800000#32 0 = 0x7F800000#32 ∧
    fdiv 0 0xBF800000#32 0 = 0xFF800000#32 ∧ fdiv 0 0x3F800000#32 0x80000000#32 = 0xFF800000#32 ∧
    fdiv 0x7FC00000#32 0 0 = 0x7FC00000#32 ∧ fdiv 0 0x3F800000#32 0x7F800000#32 = 0 := by decide
theorem test_clamp :
    clamp 0x7FC00000#32 0x3DCCCCCD#32 0x41A00000#32 = 0x3DCCCCCD#32 ∧
    clamp 0x7F800000#32 0x3DCCCCCD#32 0x41A00000#32 = 0x41A00000#32 ∧
    clamp 0xFF800000#32 0xBF800000#32 0x3F800000#32 = 0xBF800000#32 ∧
    clamp 0x80000000#32 0 0x3F800000#32 = 0x80000000#32 := by decide
theorem test_map :
    fmap nans 0x3F000000#32 0x41A00000#32 0x469C1800#32 = 0x461C6800#32 ∧
    fmap nans 0x3DCCCCCD#32 0x41A00000#32 0x469C1800#32 = 0x44FC4000#32 := by decide
theorem test_wrap :
    wrap nans 0x40E00000#32 = 0x3F378128#32 ∧ wrap nans 0xBF800000#32 = 0x40A90FDB#32 ∧
    wrap nans 0x40C90FDB#32 = 0 ∧ wrap nans 0x40C90FDA#32 = 0x40C90FDA#32 ∧
    wrap nans 0xC2C80000#32 = 0x3F07ED80#32 ∧ wrap nans 0x80000001#32 = 0 ∧ wrap nans 0x00000001#32 = 0x00000001#32 ∧
    wrap nans 0x7149F2CA#32 = 0 ∧ wrap nans 0x7F800000#32 = 0 := by decide +kernel
theorem test_floor32_f2i :
    floor32 0 0xBF000000#32 = 0xBF800000#32 ∧ floor32 0 0x403FFFFF#32 = 0x40000000#32 ∧ f2i 0x408D1EB8#32 = 4 ∧
    f2i 0x3F7FFFFF#32 = 0 ∧ f2i 0x4F7FFFFF#32 = 4294967040 ∧ f2i 0x4F800000#32 = 0xFFFFFFFF#32 := by decide
/-- The vectors of V10: the reference units, and for the tangent the word whose midpoints hold the tangent. -/
theorem test_reference_sine :
    sinRef 0x3FC90FDB#32 = 0x3F800000#32 ∧ sinRef 0x40490FDB#32 = 0xB3BBBD2E#32 ∧ sinRef 0x40C90FDB#32 = 0x343BBD2E#32 ∧
    sinRef 0x3F800000#32 = 0x3F576AA4#32 ∧ sinRef 0x3D6BE9A5#32 = 0x3D6BC842#32 ∧
    sinRef 0x408A7EF8#32 = 0xBF6D51AB#32 := by decide +kernel
theorem test_reference_arcsine :
    asinRef 0x3F800000#32 = 0x3FC90FDB#32 ∧ asinRef 0x3F000000#32 = 0x3F060A92#32 ∧
    asinRef 0x3F3504F3#32 = 0x3F490FDA#32 := by decide +kernel
def nearestTan (x : F32) (m : Nat) : Bool :=
  let t := tanSeries (fixMag x)
  decide (midBelow m * t.2 ≤ 2 * t.1 ∧ 2 * t.1 ≤ midBelow (m + 1) * t.2)
theorem test_reference_tangent :
    nearestTan 0x3D860A92#32 0x3D863BA7 ∧ nearestTan 0x3FB65E7E#32 0x40D98FC6 ∧ nearestTan 0x39AB92A7#32 0x39AB92A7 := by
  decide +kernel
/-- R157, and R159's spans as the differences they are. -/
theorem test_equality :
    feq 0x80000000#32 0 = true ∧ fne 0x80000000#32 0 = false ∧ feq 0x7FC00000#32 0x7FC00000#32 = false ∧
    fne 0x7FC00000#32 0x7FC00000#32 = true ∧ feq 0x7F800000#32 0x7F800000#32 = true := by decide
theorem test_spans : fsub 0 fCfHi fFLo = fCfSpan ∧ fsub 0 fFHi fFLo = fFSpan := by decide +kernel
theorem test_f64ToF32 :
    f64ToF32 0 0x40E5888000000000#64 = 0x472C4400#32 ∧ f64ToF32 0 0x40E5889000000000#64 = 0x472C4480#32 ∧
    f64ToF32 0 0x40E76FFFF7CED917#64 = 0x473B8000#32 := by decide +kernel
theorem test_noteHz :
    after (exec (.noteHz 69) base) (·.noteHz) = some 0x43DC0000#32 ∧
    after (exec (.noteHz 60) base) (·.noteHz) = some 0x4382D013#32 := by decide

/-! Operators. -/

/-- The increment of V50. -/
theorem test_osc_phase :
    after (exec (.opOsc 0) { base with seq := { base.seq with thz := 0x43DC0000#32 } }) (fun t => t.op[0].ph) =
      some 0x3D80634A#32 := by decide +kernel
/-- V14: a NaN in pm does not reach the phase. -/
theorem test_osc_nan_pm :
    after (exec (.opOsc 0) (setOp 0 { base.op[0] with ph := 0x3F800000#32 }
      { base with seq := { base.seq with thz := 0x43DC0000#32, pm := 0x7FC00000#32 } })) (fun t => t.op[0].ph) =
      some 0x3F880635#32 := by decide +kernel
/-- The cutoffs and resonances of V15 and V16. -/
theorem test_lpf_cutoff :
    lpfCutoff nans 0x3F800000#32 0 0x43DC0000#32 = 0x469C4000#32 ∧ lpfQ nans 0x3F800000#32 = 0x41200000#32 ∧
    lpfCutoff nans 0 0x3F800000#32 0x445C0000#32 = 0x43E60000#32 ∧ lpfQ nans 0 = 0x3DCCCCCD#32 := by decide
/-- The first call of V15 from g on. -/
theorem test_lpf_core :
    lpfH nans 0x3DCCCCCD#32 0x40D98FC6#32 = 0x3CAB029F#32 ∧
    lpfCore nans 0x40D98FC6#32 0x3DCCCCCD#32 0x3CAB029F#32 0x3F800000#32 0 0 =
      ⟨0x3F7705CB#32, 0x3E915544#32, 0x3FF705CB#32⟩ := by decide +kernel
/-- V18. -/
theorem test_comb_delay :
    combDelay 0 0x473B8000#32 (combHz nans 0) = 2400 ∧ combDelay 0 0x472C4400#32 (combHz nans 0x3F800000#32) = 4 ∧
    combDelay 0 0x483B8000#32 (combHz nans 0xBF800000#32) = 9600 := by decide +kernel
/-- V19, the third sample of the step: the line holds 1.0 at DLY[0]. -/
theorem test_comb_sample :
    (let s : State := { setOp 0 { base.op[0] with dly := [(0, 0x3F800000#32)], w := 2 } base with
        act := { base.act with op := Vector.replicate 6 { OpParams.zero with mode := 2, ctx2 := 0x40A00000#32 } }
        seq := { base.seq with chain := 0x3F800000#32, c1 := 0x3F800000#32 } }
     after (exec (.opProcess 0) s) (·.seq.out) = some 0x40000000#32 ∧
     after (exec (.opComb 0) s) (delayRead 0 2) = some 0x3FFD70A4#32) := by decide +kernel
/-- V20. -/
theorem test_pass :
    after (exec (.opProcess 5) { inMode 7 with seq := { base.seq with chain := 0x7FC12345#32 } }) (·.seq.out) =
      some 0x7FC12345#32 := by decide
theorem test_op_reset :
    after (exec (.opReset 1) (setOp 1 ⟨1, 2, 3, [(4, 5)], 6⟩ base)) (delayRead 1 4) = some 0 ∧
    after (exec (.opPrepare 1) (setOp 1 ⟨1, 2, 3, [(4, 5)], 6⟩ base)) (fun t => t.op[1].s2) = some 0 := by decide
/-- The last delay word: a write of +0.0 unlists it (R36, R90). -/
theorem test_delay_write :
    after (exec (.dReadDWrite 2 131071 (some 0x3F800000#32)) base) (delayRead 2 131071) = some 0x3F800000#32 ∧
    (delayWrite 2 131071 0 (delayWrite 2 131071 0x3F800000#32 base)).op[2].dly = [] := by decide

/-! Envelopes: V25 to V28. -/

theorem test_env_load :
    loadEnvelope nans 0x472C4400#32 ⟨0x3A83126F#32, 0x3A83126F#32, 0, 0x3A83126F#32, true⟩ Envelope.zero =
      ⟨.idle, 0, 0x3CB9C277#32, 0x3CB9C277#32, 0, 0x42306667#32, 0, true⟩ ∧
    loadEnvelope nans 0x472C4400#32 EnvParams.zero Envelope.zero =
      ⟨.idle, 0, 0x3F800000#32, 0x3F800000#32, 0, 0, 0, false⟩ := by decide +kernel
theorem test_env_attack :
    after (exec (.envStepAttack 0) (enveloped .attack 0x3CB9C277#32)) (fun t => t.env[0].level) =
      some 0x3D39C277#32 ∧
    after (exec (.envStepAttack 0) (enveloped .attack 0x3F7F6B67#32)) (fun t => t.env[0].level) =
      some 0x3F800000#32 := by decide
theorem test_env_decay :
    after (exec (.envStepDecay 0) (enveloped .decay 0x3F800000#32)) (fun t => t.env[0].level) = some 0x3F7A31EC#32 ∧
    after (exec (.envStepDecay 0) (enveloped .decay 0x3F000000#32)) (fun t => t.env[0].level) = some 0x3F000000#32 := by
  decide
theorem test_env_noteoff :
    after (exec (.envNoteoff 0) (enveloped .attack 0x3E683315#32)) (fun t => t.env[0].rDec) = some 0x3BA87D4D#32 := by
  decide
theorem test_env_release :
    after (exec (.envStepRelease 0) (enveloped .release 0x3E683315#32)) (fun t => t.env[0].level) =
      some 0x3E62EF2B#32 ∧
    after (exec (.envStepRelease 0) (enveloped .release 0)) (fun t => (estageCode t.env[0].stage).zeroExtend 32) =
      some 0 := by decide

/-! LFOs: V33 to V36. -/

theorem test_saw_square :
    sawWave nans 0x3F800000#32 = 0xBF2E833E#32 ∧ sawWave nans 0x40C90FDA#32 = 0x3F7FFFFE#32 ∧
    squareWave 0x40490FDA#32 = 0x3F800000#32 ∧ squareWave 0x40490FDB#32 = 0xBF800000#32 := by decide
/-- V34, the first step. -/
theorem test_lfo_step :
    (let p : LfoParams := ⟨0x3F800000#32, 0xC0000000#32, 2, false, 0, 0⟩
     let s : State := { base with act := { base.act with lfo := Vector.replicate 2 p } }
     after (exec (.lfoStep 1) s) (fun t => t.seq.lv[1]) = some 0x40000000#32 ∧
     after (exec (.lfoStep 1) s) (fun t => t.lph[1]) = some 0x39156593#32) := by decide +kernel
/-- V35 and V36. -/
theorem test_phase_overflow :
    advancePhase nans 0 0x7E967699#32 0x472C4400#32 = 0 ∧
    advancePhase nans 0x3F800000#32 0x473B8000#32 0x473B8000#32 = 0x3F800000#32 := by decide +kernel

/-! Router: the example of R237. -/

/-- The three slots of the example, and LFO-1's direct mapping with a given destination. -/
def routed (ddest : Dest) : State :=
  { base with
    mw := 0x3F800000#32
    seq := { base.seq with lv := #v[0x3F4CCCCD#32, 0] }
    act := { base.act with
      slot := #v[⟨0, 1, 0x3F000000#32⟩, ⟨2, 1, 0x3E800000#32⟩, ⟨0, 0, 0x3F666666#32⟩, SlotParams.zero, SlotParams.zero,
        SlotParams.zero, SlotParams.zero, SlotParams.zero]
      lfo := #v[{ LfoParams.zero with ddest := ddest, ddepth := 0xBE99999A#32 }, LfoParams.zero]
      op := Vector.replicate 6 { OpParams.zero with sgain := 0x3F333333#32 } } }

theorem test_route :
    after (exec .route (routed 0)) (fun t => t.seq.off[1]) = some 0x3F266666#32 ∧
    after (exec .route (routed 0)) (fun t => t.seq.off[0]) = some 0 ∧
    after (exec .route (routed 1)) (fun t => t.seq.off[1]) = some 0x3ED1EB84#32 := by decide +kernel
/-- The gain of the example is clamped to 1.0; the contribution alone is 0.8 * 0.5. -/
theorem test_dest_gain :
    (let s := setSeq { (routed 0).seq with src := 0x3F4CCCCD#32 } (routed 0)
     after (exec (.destGain0 (.slot 0)) s) (fun t => t.seq.off[1]) = some 0x3ECCCCCD#32 ∧
     after (exec (.destGain0 (.slot 0)) s) (·.seq.gain) = some 0x3F800000#32) := by decide +kernel

/-! Commands. -/

/-- V41. -/
theorem test_prepare :
    (let s : State := { State.reset with arg1 := 0x40E58880#32, arg2 := 512 }
     after (exec .prepare s) (·.fs) = some 0x472C4400#32 ∧ after (exec .prepare s) (busValue 0x009) = some 0x200 ∧
     after (exec .prepare s) statusWord = some 0x00000001#32) := by decide +kernel
theorem test_prepare_refused :
    after (exec .prepare { State.reset with arg1 := 0x408F4000#32, arg2 := 64 }) (·.errinfo) = some 0x00000007#32 ∧
    after (exec .prepare { State.reset with arg1 := 0x40E77000#32, arg2 := 4097 }) (·.errinfo) = some 0x00100108#32 := by
  decide +kernel
/-- Program P1 step 8 and program P5 step 2. -/
theorem test_startnote :
    after (exec (.startnote 69) base) statusWord = some 0x0000003B#32 ∧
    after (exec (.startnote 60) State.reset) (·.errinfo) = some 0x00000301#32 := by decide +kernel
/-- Program P3 step 9: release with the voice Active; program P5 step 13: the hard cut. -/
theorem test_stopnote :
    after (exec (.stopnote true) sounding) statusWord = some 0x0000003D#32 ∧
    after (exec (.stopnote false) sounding) statusWord = some 0x00000001#32 := by decide +kernel
/-- V56: the lowest offending address. -/
theorem test_setparams_refused :
    after (exec .setparams (staged 0x6D 55)) (·.errinfo) = some 0x00016D02#32 ∧
    after (exec .setparams { staged 0x6D 55 with stage := (staged 0x6D 55).stage.set 0x12 9 }) (·.errinfo) =
      some 0x00011204#32 := by decide +kernel
/-- V58: a subnormal ratio, a NaN flag word and a large MODE word are accepted; -Inf in a cell is not. -/
theorem test_setparams_floats :
    after (exec .setparams (staged 0x31 1)) (fun t => t.act.op[0].ratio) = some 1 ∧
    after (exec .setparams (staged 0x04 0x7FC00001#32)) (fun t => resultWord t.act.env[0].retrig) = some 1 ∧
    after (exec .setparams (staged 0xA3 0xFF800000#32)) (·.errinfo) = some 0x0001A306#32 := by decide +kernel
/-- V43, and program P3 step 10: a voice that completes in its first sample. -/
theorem test_render_range :
    after (exec .render { base with arg0 := 60, arg1 := 5 }) (·.errinfo) = some 0x00003C09#32 ∧
    after (exec .render { base with arg0 := 0xFFFFFFFF#32, arg1 := 2 }) (·.errinfo) = some 0xFFFFFF09#32 ∧
    after (exec .render { base with arg0 := 64, arg1 := 0 }) (·.errinfo) = some 0 := by decide +kernel
theorem test_render_completes :
    (let s : State := { setEnv 1 (envelopeAt .release 0) (enveloped .release 0) with vstate := .releasing, arg1 := 64 }
     after (exec .render s) statusWord = some 0x00000041#32) := by decide +kernel
/-- V40, V45. -/
theorem test_canplay_isactive :
    after (exec (.canplay 1) base) (·.result) = some 1 ∧
    after (exec (.canplay 0xFFFFFF) { base with result := 1 }) (·.result) = some 0 ∧
    after (exec .isactive sounding) (·.result) = some 1 := by decide
theorem test_ctrl :
    after (exec (.ctrl 1) { base with arg0 := 0x3F000000#32 }) (·.mw) = some 0x3F000000#32 ∧
    after (exec (.ctrl 1) { base with arg0 := 0x7F800000#32 }) (·.errinfo) = some 0x0000010C#32 ∧
    after (exec (.ctrl 7) { base with arg0 := 0x7FC00000#32 }) (·.errinfo) = some 0 := by decide
/-- Program P5 step 3, after step 2: the flag is added, ERRINFO stays. -/
theorem test_first_refusal_stays :
    after (exec (.busWrite 0 0xFF000001#32) { State.reset with seqErr := true, errinfo := 0x301#32 }) statusWord =
      some 0x00000900#32 ∧
    after (exec (.busWrite 0 0xFF000001#32) { State.reset with seqErr := true, errinfo := 0x301#32 }) (·.errinfo) =
      some 0x00000301#32 := by decide

/-! The bus: V60 to V64. -/

theorem test_bus_read :
    after (exec (.busRead 0x007) base) (·.rdata) = some 0x53495836#32 ∧
    after (exec (.busRead 0x000) base) (·.rdata) = some 0 ∧ after (exec (.busRead 0x0FF) base) (·.rdata) = some 0 := by
  decide
theorem test_bus_write :
    after (exec (.busWrite 0x003 0x12345678#32) base) (busValue 0x003) = some 0x12345678#32 ∧
    after (exec (.busWrite 0x105 0xDEADBEEF#32) base) (busValue 0x105) = some 0 ∧
    after (exec (.busWrite 0x161 99) base) (busValue 0x161) = some 99 ∧
    after (exec (.busWrite 0x2FFF 0x7FC00000#32) base) (busValue 0x2FFF) = some 0x7FC00000#32 ∧
    after (exec (.busWrite 0x007 0) base) (busValue 0x007) = some 0x53495836#32 := by decide +kernel
/-- Accumulation (R318): 0.5 is added to what both channels hold at the frame. -/
theorem test_out_add :
    (let s : State := { base with arg0 := 3, outbuf := [(0x1003, 0x3F000000#32), (0x2003, 0x3F800000#32)]
                                  seq := { base.seq with y := 0x3F000000#32 } }
     after (exec .outAdd s) (outbufRead 0x1003) = some 0x3F800000#32 ∧
     after (exec .outAdd s) (outbufRead 0x2003) = some 0x3FC00000#32) := by decide +kernel
theorem test_complete :
    after (exec .complete { base with vstate := .releasing }) statusWord = some 0x00000041#32 := by decide
/-- One term of R311: OPOUT[1] = 1.0 with weight -0.5 + 3.0, clamped to 1.0 (V21). -/
theorem test_pm :
    (let row : Vector F32 6 := #v[0, 0xBF000000#32, 0, 0, 0, 0]
     let s : State := { base with
        opout := #v[0, 0x3F800000#32, 0, 0, 0, 0]
        act := { base.act with matrix := base.act.matrix.set 0 row }
        seq := { base.seq with off := base.seq.off.set 20 0x40400000#32 } }
     after (exec (.pm 0) s) (·.seq.pm) = some 0x3F800000#32) := by decide +kernel
theorem test_hwreset :
    after (exec .hwreset { sounding with errinfo := 0x301#32, seqErr := true }) statusWord = some 0 ∧
    after (exec .hwreset { sounding with errinfo := 0x301#32, seqErr := true }) (·.errinfo) = some 0 := by decide

/-! The step and the opcode table. -/

theorem test_step_pops :
    after (step { base with requests := [.write 0x000 0x03000045#32, .read 0x004] }) statusWord = some 0x3B#32 ∧
    after (step { base with requests := [.write 0x000 0x03000045#32, .read 0x004] })
      (fun t => BitVec.ofNat 32 t.requests.length) = some 1 := by decide +kernel
theorem test_table_word :
    decodeTableWord 32 0x03000045 = some (.startnote 69) ∧ decodeTableWord 32 20 = some (.destCell01 (.slot 0)) ∧
    decodeTableWord 32 54 = some (.destCell55 (.slot 0)) ∧ decodeTableWord 32 0xFFFFFFFF = some (.opPass 0 0xFFFFFFFF) ∧
    after (step (State.reset.withFetchWord 32 0x02000001)) (·.result) = some 1 := by decide

/-! Witnesses. Each names the statement whose hypotheses it meets, clause by clause where it has several. -/

theorem witness_DecodeInvertsEncode :
    (Instr.opPass 0 3).wellFormed = true ∧ encode (.opPass 0 3) = some (.select (.mode 0) 3) ∧
    decode (.select (.mode 0) 3) = .ok (.opPass 0 3) := by decide

theorem witness_CmdWriteDecodesOrRefuses :
    8 < ((0x09000000#32).extractLsb' 24 8).toNat ∧
    (((0x08000080#32).extractLsb' 24 8).toNat ≤ 8 ∧ ∀ row ∈ opcodeRows, 0x08000080#32 &&& row.2 ≠ row.1) ∧
    ((0x08000000#32, 0xFFFFFF80#32) ∈ opcodeRows ∧ 0x0800007F#32 &&& 0xFFFFFF80#32 = 0x08000000#32) := by
  simp [opcodeRows]

theorem witness_StepServesFirstRequest :
    State.reset.requests = [] ∧ decode (.write 0 0) = .ok .nop ∧
    decode (.write 0 0x09000000#32) = .error (.unknownOpcode 0x090000) ∧
    decode (.write 0 0x00000001#32) = .error (.reservedBits 0) ∧
    decode (.select (.wave 0) 4) = .error (.reservedSelector (.wave 0) 4) := by decide

theorem asked_write_not_reset (a : Nat) (v : Word) (s : State) : ¬RunsReset (asked (.write a v) s) := by
  rintro ⟨_, h⟩; simp [asked] at h

theorem asked_write_runs {a : Nat} {v : Word} {s : State} {c : Command} (h : Runs (asked (.write a v) s) c) :
    decodeCommand v = .ok c := by
  obtain ⟨w, rest, h1, h2⟩ := h
  simp only [asked, List.cons.injEq, Request.write.injEq] at h1
  rw [h1.1.2]; exact h2

/-- All four flags set, and a command that is refused again. -/
def flagged : State :=
  asked (.write 0 0xFF000001#32)
    { base with seqErr := true, cfgErr := true, argErr := true, cmdErr := true, errinfo := 0x301#32 }

theorem witness_ErrorFlagsAreSticky :
    ¬RunsReset flagged ∧ (∃ t, step flagged = .next t) ∧ flagged.seqErr = true ∧ flagged.cfgErr = true ∧
    flagged.argErr = true ∧ flagged.cmdErr = true ∧ flagged.errinfo ≠ 0 :=
  ⟨asked_write_not_reset _ _ _, ⟨_, rfl⟩, rfl, rfl, rfl, rfl, by decide⟩

theorem witness_ErrinfoAgreesWithFlagsEveryStep :
    ErrorsAgree flagged ∧ (∃ t, step flagged = .next t) ∧ ErrorsAgree (asked (.write 0 0x06000000#32) State.reset) ∧
    ∃ t, step (asked (.write 0 0x06000000#32) State.reset) = .next t :=
  ⟨by unfold ErrorsAgree; decide, ⟨_, rfl⟩, by unfold ErrorsAgree; decide, ⟨_, rfl⟩⟩

/-- The rates next to both bounds and a NaN; the block sizes next to both bounds; the range one frame too long; an
infinity and a NaN as the wheel's value. -/
theorem witness_RefusalsSetFlagAndFirstCause :
    flt64 (0x40E5887F#32 ++ 0xFFFFFFFF#32) 0x40E5888000000000#64 = true ∧
    flt64 0x4107700000000000#64 (0x41077000#32 ++ 0x00000001#32) = true ∧ isNaN64 (0x7FF80000#32 ++ 0#32) = true ∧
    (isNaN64 (0x40E58880#32 ++ 0#32) = false ∧ flt64 (0x40E58880#32 ++ 0#32) 0x40E5888000000000#64 = false ∧
      flt64 0x4107700000000000#64 (0x40E58880#32 ++ 0#32) = false ∧ (0#32).toNat < 1 ∧ 4096 < (4097#32).toNat) ∧
    State.reset.prepared = false ∧
    (base.prepared = true ∧ base.blockSize.toNat < (60#32).toNat + (5#32).toNat) ∧
    isFinite 0x7F800000#32 = false ∧ isFinite 0x7FC00000#32 = false := by decide

theorem stageField_first : stageField 0x100 := .inl ⟨0, 0, rfl⟩
theorem stageField_last : stageField 0x1A3 := .inr (.inr (.inr (.inr (.inr ⟨5, 5, rfl⟩))))

theorem stageField_reserved : ¬stageField 0x105 ∧ ¬stageField 0x1A4 ∧ ¬stageField 0x3000 ∧ ¬stageField 0 := by
  simp only [stageField]; refine ⟨?_, ?_, ?_, ?_⟩ <;> decide

theorem witness_BusReadReturnsMapWord :
    0x4000 ≤ 0x4000 ∧ 0x3FFF < 0x4000 ∧ stageField 0x100 ∧ stageField 0x1A3 ∧ outbufAddr 0x1000 ∧ outbufAddr 0x2FFF ∧
    (¬(1 ≤ 0x105 ∧ 0x105 ≤ 0x00A) ∧ ¬stageField 0x105 ∧ ¬outbufAddr 0x105) ∧
    (¬(1 ≤ 0x3000 ∧ 0x3000 ≤ 0x00A) ∧ ¬stageField 0x3000 ∧ ¬outbufAddr 0x3000) ∧
    (¬(1 ≤ 0 ∧ 0 ≤ 0x00A) ∧ ¬stageField 0 ∧ ¬outbufAddr 0) :=
  ⟨by decide, by decide, stageField_first, stageField_last, by unfold outbufAddr; decide, by unfold outbufAddr; decide,
    ⟨by decide, stageField_reserved.1, by unfold outbufAddr; decide⟩,
    ⟨by decide, stageField_reserved.2.2.1, by unfold outbufAddr; decide⟩,
    ⟨by decide, stageField_reserved.2.2.2, by unfold outbufAddr; decide⟩⟩

theorem witness_BusWriteStoresOneWord :
    0x4000 ≤ 0x4000 ∧ (0x3FFF ≠ 0x000 ∧ 0x3FFF < 0x4000) ∧ writable 0x001 ∧ writable 0x003 ∧ writable 0x100 ∧
    writable 0x1A3 ∧ writable 0x1000 ∧ writable 0x2FFF ∧ ¬writable 0x004 ∧ ¬writable 0x105 := by
  refine ⟨by decide, by decide, .inl rfl, .inr (.inr (.inl rfl)), .inr (.inr (.inr (.inl stageField_first))),
    .inr (.inr (.inr (.inl stageField_last))), .inr (.inr (.inr (.inr (by unfold outbufAddr; decide)))),
    .inr (.inr (.inr (.inr (by unfold outbufAddr; decide)))), ?_, ?_⟩ <;>
    simp only [writable, stageField, outbufAddr] <;> decide

/-- Also for the statements about OP.COMB and the canonical form of memory. -/
theorem witness_DelayWordReadAfterWrite :
    memoryWf base = true ∧ memoryWf (delayWrite 5 131071 0x3F800000#32 base) = true := by decide

theorem witness_CombSample : memoryWf (inMode 2) = true := by decide

theorem witness_ProcessRunsTheSelectedMode :
    (inMode 0).act.op[5].mode = 0 ∧ (inMode 1).act.op[0].mode = 1 ∧ (inMode 2).act.op[3].mode = 2 ∧
    3 ≤ ((inMode 3).act.op[0].mode).toNat ∧ 3 ≤ ((inMode 0xFFFFFFFF#32).act.op[0].mode).toNat := by decide

/-- In each mode an operator state with its own part as before and every other part changed. -/
theorem witness_ModesAreIsolated :
    ((inMode 0).act.op[2].mode = 0 ∧ (⟨0, 1, 2, [(3, 4)], 5⟩ : Operator).ph = (inMode 0).op[2].ph) ∧
    ((inMode 1).act.op[2].mode = 1 ∧ (⟨1, 0, 0, [(3, 4)], 5⟩ : Operator).s1 = (inMode 1).op[2].s1 ∧
      (⟨1, 0, 0, [(3, 4)], 5⟩ : Operator).s2 = (inMode 1).op[2].s2) ∧
    ((inMode 2).act.op[2].mode = 2 ∧ (⟨1, 2, 3, [], 0⟩ : Operator).dly = (inMode 2).op[2].dly ∧
      (⟨1, 2, 3, [], 0⟩ : Operator).w = (inMode 2).op[2].w) ∧
    3 ≤ ((inMode 3).act.op[2].mode).toNat := by decide

theorem witness_EnvelopeStepByStage :
    (enveloped .idle 0).env[0].stage = .idle ∧ (enveloped .attack 0x3F800000#32).env[0].stage = .attack ∧
    (enveloped .decay 0x3F800000#32).env[0].stage = .decay ∧ (enveloped .sustain 0).env[0].stage = .sustain ∧
    (enveloped .release 0).env[0].stage = .release ∧ (enveloped .idle 0).env[0].stage ≠ .attack := by decide

theorem witness_LfoSyncFollowsFlag :
    (let s : State := { base with act := { base.act with lfo := #v[{ LfoParams.zero with sync := true }, LfoParams.zero] } }
     s.act.lfo[0].sync = true ∧ s.act.lfo[1].sync = false) := by decide

/-- The smallest and the largest phase. -/
theorem witness_WaveformsStayInUnitRange :
    inPhase base.lph[0] ∧ inPhase (setLph 1 0x40C90FDA#32 base).lph[1] := by decide

/-- Also for the premises about members of the word lists and of the ROM's top octave. -/
theorem witness_ParameterDestinationsAccumulate :
    (Instr.destGain5, (5 : OpIdx)) ∈ gainWords ∧ (Instr.destRatio0, (0 : OpIdx)) ∈ ratioWords ∧
    (Instr.destCtx1_5, (5 : OpIdx)) ∈ ctx1Words := by
  simp [gainWords, ratioWords, ctx1Words]

theorem witness_CellDestinationsAccumulate :
    (Instr.destCell00, (0 : OpIdx), (0 : OpIdx)) ∈ cellWords ∧ (Instr.destCell55, (5 : OpIdx), (5 : OpIdx)) ∈ cellWords := by
  simp [cellWords]

theorem witness_DestinationZeroIsInert :
    (routed 1).act.slot[2].dest = 0 ∧ (routed 1).act.slot[7].dest = 0 ∧ (routed 1).act.lfo[1].ddest = 0 := by decide

/-- The first and the last frame, and a word of neither channel's frame. -/
theorem witness_OutAddWritesEveryChannel :
    outbufAddr (0x1000 + 0x1000 * (0 : Fin 2).val + (base.arg0.toNat + base.seq.n.toNat)) ∧
    outbufAddr (0x1000 + 0x1000 * (1 : Fin 2).val + ((4095#32).toNat + base.seq.n.toNat)) ∧
    ∀ c : Fin 2, outbufAddr 0x1001 → 0x1001 ≠ 0x1000 + 0x1000 * c.val + (base.arg0.toNat + base.seq.n.toNat) := by
  simp only [outbufAddr]; decide

theorem witness_CompletionNeedsBothEnvelopesIdle :
    (base.env[0].stage = .idle ∧ base.env[1].stage = .idle) ∧
    ((enveloped .release 0).env[0].stage ≠ .idle ∧ (enveloped .release 0).env[1].stage = .idle) := by decide

theorem witness_NoteRomHoldsEqualTemperament : (0#7).toNat < 116 ∧ (115#7).toNat < 116 := by decide

/-- Operands of PREPARE at the given rate word and block size. -/
def preparing (hi blockSize : Word) : State := { State.reset with arg1 := hi, arg2 := blockSize }

theorem witness_PrepareInitialisesTheVoice :
    (isNaN64 ((preparing 0x40E58880#32 1).arg1 ++ (preparing 0x40E58880#32 1).arg0) = false ∧
      flt64 ((preparing 0x40E58880#32 1).arg1 ++ (preparing 0x40E58880#32 1).arg0) 0x40E5888000000000#64 = false ∧
      flt64 0x4107700000000000#64 ((preparing 0x40E58880#32 1).arg1 ++ (preparing 0x40E58880#32 1).arg0) = false ∧
      1 ≤ (preparing 0x40E58880#32 1).arg2.toNat) ∧
    (isNaN64 ((preparing 0x41077000#32 4096).arg1 ++ (preparing 0x41077000#32 4096).arg0) = false ∧
      flt64 ((preparing 0x41077000#32 4096).arg1 ++ (preparing 0x41077000#32 4096).arg0) 0x40E5888000000000#64 = false ∧
      flt64 0x4107700000000000#64 ((preparing 0x41077000#32 4096).arg1 ++ (preparing 0x41077000#32 4096).arg0) = false ∧
      (preparing 0x41077000#32 4096).arg2.toNat ≤ 4096) := by decide +kernel

theorem witness_PrepareIsIdempotent : ∃ t, exec .prepare (preparing 0x40E58880#32 64) = .next t := ⟨_, rfl⟩

/-- A word 0 offends nothing. -/
theorem not_offends_zero {s : State} {a : Nat} (h : stageWord s a = 0) (cause : Nat) : ¬Offends s a cause := by
  unfold Offends
  rw [h]
  rintro (⟨_, _, h⟩ | ⟨_, _, h⟩ | ⟨_, _, h⟩ | ⟨_, _, h⟩ | ⟨_, _, h⟩)
  · exact absurd h (by decide)
  all_goals simp at h

/-- In a bank with one word set, every word below it is 0. -/
theorem staged_below {i : Fin 164} {v : Word} {b : Nat} (h : b < 0x100 + i.val) (h0 : 0 < i.val) :
    stageWord (staged i v) b = 0 := by
  have hne : i.val ≠ b - 0x100 := by omega
  unfold stageWord staged
  rw [Vector.getElem?_set_ne _ hne]
  by_cases hb : b - 0x100 < 164 <;> simp [hb]

theorem witness_SetparamsPublishesTheSnapshot : ∀ a cause, ¬Offends State.reset a cause := by
  intro a cause
  apply not_offends_zero
  unfold stageWord State.reset
  by_cases ha : a - 0x100 < 164 <;> simp [ha]

/-- A first offender of each cause; the last word of the bank among them. -/
theorem witness_SetparamsRefusesTheFirstOffender :
    (Offends (staged 0x6D 55) 0x16D 2 ∧ ∀ b, b < 0x16D → ∀ c, ¬Offends (staged 0x6D 55) b c) ∧
    (Offends (staged 0x60 3) 0x160 3 ∧ ∀ b, b < 0x160 → ∀ c, ¬Offends (staged 0x60 3) b c) ∧
    (Offends (staged 0x12 4) 0x112 4 ∧ ∀ b, b < 0x112 → ∀ c, ¬Offends (staged 0x12 4) b c) ∧
    (Offends (staged 0x5F 2) 0x15F 5 ∧ ∀ b, b < 0x15F → ∀ c, ¬Offends (staged 0x5F 2) b c) ∧
    (Offends (staged 0xA3 0xFF800000#32) 0x1A3 6 ∧ ∀ b, b < 0x1A3 → ∀ c, ¬Offends (staged 0xA3 0xFF800000#32) b c) := by
  refine ⟨⟨.inr (.inr (.inl ⟨rfl, .inr ⟨3, rfl⟩, by decide⟩)), ?_⟩, ⟨.inr (.inr (.inr (.inr ⟨rfl, ⟨0, rfl⟩, by decide⟩))), ?_⟩,
    ⟨.inr (.inl ⟨rfl, ⟨0, rfl⟩, by decide⟩), ?_⟩, ⟨.inr (.inr (.inr (.inl ⟨rfl, ⟨5, rfl⟩, by decide⟩))), ?_⟩,
    ⟨.inl ⟨rfl, .inr (.inr (.inr (.inr (.inr ⟨5, 5, rfl⟩)))), by decide⟩, ?_⟩⟩ <;>
    exact fun b hb c => not_offends_zero (staged_below hb (by decide)) c

/-- From Idle and over a sounding note. -/
theorem witness_StartnoteStartsTheNote : base.prepared = true ∧ sounding.prepared = true := by decide

/-- Over a sounding note, without and with the retrigger flag. -/
theorem witness_RetriggerDecidesFirstLevel :
    sounding.prepared = true ∧ sounding.act.env[0].retrig = false ∧
    ({ sounding with act := { sounding.act with env := Vector.replicate 2 { EnvParams.zero with retrig := true } } } :
      State).prepared = true := by decide

theorem witness_StopnoteReleasesOrCuts : sounding.vstate ≠ .idle ∧ base.vstate = .idle := by decide

theorem witness_ControllerOneWritesModWheel :
    ((1#7).toNat = 1 ∧ isFinite { base with arg0 := 0x7F7FFFFF#32 }.arg0 = true) ∧ (0#7).toNat ≠ 1 ∧ (2#7).toNat ≠ 1 := by
  decide

/-- The whole block, the empty range at its end, a sounding and an Idle voice; a word of no frame; a delay word out of
reach. -/
theorem witness_RenderCompletesWithinItsFrame :
    (base.prepared = true ∧ (64#32).toNat + (0#32).toNat ≤ base.blockSize.toNat) ∧
    (sounding.prepared = true ∧ (0#32).toNat + (64#32).toNat ≤ sounding.blockSize.toNat) ∧
    (∀ (c : Fin 2) (k : Nat), k < (64#32).toNat → 0x1040 ≠ 0x1000 + 0x1000 * c.val + ((0#32).toNat + k)) ∧
    (sounding.act.op[0].mode ≠ 2 ∧ (64#32).toNat ≤ (64#17 - (inMode 2).op[0].w).toNat) ∧
    base.vstate = .idle ∧ base.arg1 = 0 := by
  refine ⟨by decide, by decide, ?_, by decide, by decide, by decide⟩
  intro c k hk
  have : (64#32).toNat = 64 := by decide
  have : (0#32).toNat = 0 := by decide
  have := c.isLt; omega

theorem witness_RenderOneSampleRunsSteps :
    sounding.prepared = true ∧ (63#32).toNat + 1 ≤ sounding.blockSize.toNat ∧ { sounding with arg1 := 1 }.arg1 = 1 ∧
    sounding.vstate ≠ .idle := by decide

theorem witness_ConsecutiveRendersContinue :
    sounding.prepared = true ∧ sounding.arg0.toNat + 32 + 32 ≤ sounding.blockSize.toNat := by decide

theorem witness_ImmediateStopCompletesInOneSample :
    base.prepared = true ∧ (63#32).toNat + 1 ≤ base.blockSize.toNat ∧ { base with arg1 := 1 }.arg1 = 1 ∧
    (∀ e : EnvIdx, base.act.env[e].retrig = true ∨ base.env[e].level = 0x00000000#32) ∧
    ∀ e : EnvIdx, ({ sounding with act := { sounding.act with
      env := Vector.replicate 2 { EnvParams.zero with retrig := true } } } : State).act.env[e].retrig = true := by decide

/-- A request that runs none of the named commands. -/
theorem witness_OnlyTheirCommandsWriteRegisters :
    (let s := asked (.write 0 0x06000000#32) sounding
     ¬RunsReset s ∧ (∃ t, step s = .next t) ∧ ¬Runs s .setparams ∧ ¬Runs s (.ctrl 1) ∧ ¬Runs s .prepare ∧
      (∀ note, ¬Runs s (.startnote note)) ∧ (∀ tag, ¬Runs s (.canplay tag)) ∧ ¬Runs s .isactive) := by
  have hd : decodeCommand 0x06000000#32 = .ok .render := by decide
  refine ⟨asked_write_not_reset _ _ _, ⟨_, rfl⟩, ?_, ?_, ?_, ?_, ?_, ?_⟩ <;> intros <;> intro h <;>
    have := asked_write_runs h <;> rw [hd] at this <;> simp at this

/-- A transition to each state. -/
theorem witness_VoiceStateTransitions :
    (∃ t, step (asked (.write 0 0x03000045#32) base) = .next t ∧ t.vstate ≠ base.vstate) ∧
    (∃ t, step (asked (.write 0 0x04000001#32) sounding) = .next t ∧ t.vstate ≠ sounding.vstate) ∧
    (∃ t, step (asked (.write 0 0x04000000#32) sounding) = .next t ∧ t.vstate ≠ sounding.vstate) ∧
    (∃ t, step (asked .reset sounding) = .next t ∧ t.vstate ≠ sounding.vstate) :=
  ⟨⟨_, rfl, by decide⟩, ⟨_, rfl, by decide⟩, ⟨_, rfl, by decide⟩, ⟨_, rfl, by decide⟩⟩

theorem witness_StageIsInvisibleUntilSetparams : Command.render ≠ .setparams ∧ Command.nop ≠ .setparams := by decide

/-- Finite operands whose sum is 0 and is not; a divisor 0 and not; each class of special operand; a datum that rounds to
an infinity and one that does not. -/
theorem witness_ArithmeticRoundsToNearestEven :
    isFinite 0x7F7FFFFF#32 = true ∧ value 0x3F800000#32 + value 0xBF800000#32 = 0 ∧
    value 0x00000001#32 + value 0x80000000#32 ≠ 0 ∧ isZero 0x00000001#32 = false ∧ isZero 0x80000000#32 = true ∧
    isNaN 0x7F800001#32 = true ∧ isInf 0xFF800000#32 = true ∧ isNaN 0xFF800000#32 = false ∧
    isFinite (fmul 0 0x7F7FFFFF#32 0x40000000#32) = false ∧ isFinite (fmul 0 0x7F7FFFFF#32 0x3F800000#32) = true := by
  decide +kernel

/-- Each clause at a bound of its range. -/
theorem witness_ClampAndWrapStayInRange :
    (isFinite 0xBF800000#32 = true ∧ isFinite 0x3F800000#32 = true ∧ fle 0xBF800000#32 0x3F800000#32 = true ∧
      fle 0x3F800000#32 0x3F800000#32 = true) ∧
    (isNaN 0x7FC00000#32 = true ∧ flt 0xBF800001#32 0xBF800000#32 = true ∧ fgt 0x3F800001#32 0x3F800000#32 = true) ∧
    (isInf 0xFF800000#32 = true ∧ isZero 0x80000000#32 = true ∧ isFinite 0x4B000000#32 = true ∧
      2 ^ 23 * 2 ^ 149 ≤ magnitude 0x4B000000#32 ∧ ¬2 ^ 23 * 2 ^ 149 ≤ magnitude 0x4AFFFFFF#32) ∧
    (fle 0x80000000#32 0x00000000#32 = true ∧ fge 0x4F800000#32 0x4F800000#32 = true ∧
      flt 0x00000000#32 0x00000001#32 = true ∧ flt 0x4F7FFFFF#32 0x4F800000#32 = true) ∧
    (0x7FEFFFFFFFFFFFFF#64).extractLsb' 52 11 ≠ 0x7FF#11 := by decide +kernel

theorem witness_TranscendentalUnitProperties :
    isNaN 0x7FC00000#32 = true ∧ isFinite 0x7F7FFFFF#32 = true ∧ fle (fabs 0xC2800000#32) 0x42800000#32 = true ∧
    (fle 0xBF800000#32 0x3F800000#32 = true ∧ fle 0x3F800000#32 0x3F800000#32 = true ∧
      fle 0xBF800000#32 0xBF800000#32 = true) ∧
    (fle 0 0 = true ∧ fle 0 0x3FB6631F#32 = true ∧ fle 0x3FB6631F#32 0x3FB6631F#32 = true) := by decide

/-- A note is started on a prepared voice. -/
def noteOn : State := asked (.write 0 0x03000045#32) base

theorem witness_EveryStepKeepsMemoryCanonical : memoryWf noteOn = true ∧ ∃ t, step noteOn = .next t :=
  ⟨by decide, ⟨_, rfl⟩⟩

theorem witness_EveryStepKeepsPhasesInRange :
    phasesOk noteOn ∧ phasesOk (setLph 1 0x40C90FDA#32 noteOn) ∧ ∃ t, step noteOn = .next t :=
  ⟨by decide, by decide, ⟨_, rfl⟩⟩

theorem witness_EveryStepKeepsEnvelopesInRange :
    envelopesOk noteOn ∧ envelopesOk (setEnv 0 (envelopeAt .decay 0x3F800000#32) noteOn) ∧ ∃ t, step noteOn = .next t :=
  ⟨by decide, by decide, ⟨_, rfl⟩⟩

theorem witness_EveryStepKeepsVoiceAndEnvelopesTogether :
    voiceOk noteOn ∧ voiceOk (asked (.write 0 0x06000000#32) sounding) ∧
    (∃ t, step (asked (.write 0 0x06000000#32) sounding) = .next t) ∧ ∃ t, step noteOn = .next t :=
  ⟨by decide, by decide, ⟨_, rfl⟩, ⟨_, rfl⟩⟩

theorem witness_EveryStepKeepsParametersLegal :
    preparedOk noteOn ∧ parametersFinite noteOn ∧ (∃ t, step noteOn = .next t) ∧
    preparedOk { base with fs := 0x483B8000#32, blockSize := 4096 } :=
  ⟨by decide, by decide, ⟨_, rfl⟩, by decide⟩

end Sys2Proof.Tests
end

section
/-! PROOFS. The command decoder as a table (R111 to R117): row k of R116 by its operand width and its command, the words
that match it, and the decoder's answer for each word. Settles O3 and O4. -/

namespace Sys2Proof

open Sys2Proof.Machine Sys2Proof.Claims

/-! The rows of R116. -/

/-- The width of the operand in IMM that the format of row k has; the bits above it must be 0 (R113). -/
def operandBits (k : Fin 9) : Nat :=
  match k with
  | 2 => 24
  | 3 | 8 => 7
  | 4 => 1
  | _ => 0

/-- The command of row k, with the operand cut from the word (R113, R116). -/
def rowCommand (k : Fin 9) (w : Word) : Command :=
  match k with
  | 0 => .nop
  | 1 => .prepare
  | 2 => .canplay (immField w)
  | 3 => .startnote (imm7 w)
  | 4 => .stopnote (immBit0 w)
  | 5 => .setparams
  | 6 => .render
  | 7 => .isactive
  | 8 => .ctrl (imm7 w)

/-- The row a command stands in. -/
def Command.row (c : Command) : Fin 9 :=
  match c with
  | .nop => 0
  | .prepare => 1
  | .canplay _ => 2
  | .startnote _ => 3
  | .stopnote _ => 4
  | .setparams => 5
  | .render => 6
  | .isactive => 7
  | .ctrl _ => 8

theorem row_rowCommand (k : Fin 9) (w : Word) : (rowCommand k w).row = k := by
  fin_cases k <;> rfl

/-- The bits of IMM that row k needs 0. -/
def reservedField (k : Fin 9) (w : Word) : BitVec (24 - operandBits k) := w.extractLsb' (operandBits k) _

/-- `w & mask == match` for row k of R116. -/
def MatchesRow (k : Fin 9) (w : Word) : Prop := w &&& (opcodeRows.get k).2 = (opcodeRows.get k).1

/-- Row k's match is the word of opcode k alone; its mask leaves out the operand only. -/
theorem opcodeRows_get (k : Fin 9) :
    opcodeRows.get k = (commandWord (BitVec.ofNat 8 k.val) 0, BitVec.allOnes 32 <<< operandBits k) := by
  fin_cases k <;> rfl

theorem forall_mem_opcodeRows {p : Word × Word → Prop} :
    (∀ row ∈ opcodeRows, p row) ↔ ∀ k : Fin 9, p (opcodeRows.get k) :=
  List.forall_mem_iff_get

/-- A mask of all but the lowest n bits keeps the bits from n up. -/
theorem getLsbD_and_mask (w : Word) (n : Nat) {i : Nat} (hi : i < 32) :
    (w &&& (BitVec.allOnes 32 <<< n)).getLsbD i = (w.getLsbD i && decide (n ≤ i)) := by
  by_cases hni : n ≤ i
  · simp [-BitVec.reduceAllOnes, hi, hni]
  · simp [hni, show i < n by omega]

theorem getLsbD_commandWord_zero (opc : BitVec 8) (i : Nat) :
    (commandWord opc 0).getLsbD i = if i < 24 then false else opc.getLsbD (i - 24) := by
  rw [commandWord, BitVec.getLsbD_append]
  split <;> simp

/-- Under a mask of all but the lowest n bits, n ≤ 24, a word equals the word of opc alone exactly when its opcode is
opc and the rest of IMM is 0. -/
theorem and_mask_eq_commandWord_iff (w : Word) (opc : BitVec 8) {n : Nat} (hn : n ≤ 24) :
    w &&& (BitVec.allOnes 32 <<< n) = commandWord opc 0 ↔ opcField w = opc ∧ w.extractLsb' n (24 - n) = 0 := by
  constructor
  · intro h
    have bits (i : Nat) (hi : i < 32) :
        (w.getLsbD i && decide (n ≤ i)) = if i < 24 then false else opc.getLsbD (i - 24) := by
      rw [← getLsbD_and_mask w n hi, h, getLsbD_commandWord_zero]
    constructor
    · ext i hi
      simpa [opcField, BitVec.getLsbD_eq_getElem hi, show n ≤ 24 + i by omega] using bits (24 + i) (by omega)
    · ext i hi
      simpa [show n + i < 24 by omega] using bits (n + i) (by omega)
  · rintro ⟨rfl, hzero⟩
    apply BitVec.eq_of_getLsbD_eq
    intro i hi
    rw [getLsbD_and_mask w n hi, getLsbD_commandWord_zero]
    split
    next hlow =>
      by_cases hni : n ≤ i
      · have := congrArg (·.getLsbD (i - n)) hzero
        simpa [hni, show n + (i - n) = i by omega, show i - n < 24 - n by omega] using this
      · simp [hni]
    next hhigh =>
      simp [opcField, show n ≤ i by omega, show i - 24 < 8 by omega, show 24 + (i - 24) = i by omega]

theorem operandBits_le (k : Fin 9) : operandBits k ≤ 24 := by
  revert k; decide

/-- A word matches row k exactly when its opcode is k and its must-be-0 bits are 0 (R113, R116). -/
theorem matchesRow_iff (k : Fin 9) (w : Word) :
    MatchesRow k w ↔ (opcField w).toNat = k.val ∧ reservedField k w = 0 := by
  have hk : k.val % 2 ^ 8 = k.val := Nat.mod_eq_of_lt (by omega)
  rw [MatchesRow, opcodeRows_get, and_mask_eq_commandWord_iff w _ (operandBits_le k), ← BitVec.toNat_inj,
    BitVec.toNat_ofNat, hk, reservedField]

/-- No word matches two rows, because the opcodes differ (R112). -/
theorem matchesRow_unique {j k : Fin 9} {w : Word} (hj : MatchesRow j w) (hk : MatchesRow k w) : j = k := by
  obtain ⟨hopcj, -⟩ := (matchesRow_iff j w).mp hj
  obtain ⟨hopck, -⟩ := (matchesRow_iff k w).mp hk
  exact Fin.ext (hopcj.symm.trans hopck)

/-! The decoder's answers. -/

/-- For opcode k the decoder checks the must-be-0 bits of row k and answers its command. -/
theorem decodeCommand_of_opcode {k : Fin 9} {w : Word} (h : (opcField w).toNat = k.val) :
    decodeCommand w = needZero (reservedField k w == 0) w (rowCommand k w) := by
  have tag_all_operand : reservedField 2 w = 0 := Subsingleton.elim (α := BitVec 0) ..
  unfold decodeCommand
  rw [h]
  match k with
  | 2 => exact (if_pos (beq_iff_eq.mpr tag_all_operand)).symm
  | 0 | 1 | 3 | 4 | 5 | 6 | 7 | 8 => rfl

theorem decodeCommand_of_matchesRow {k : Fin 9} {w : Word} (h : MatchesRow k w) :
    decodeCommand w = .ok (rowCommand k w) := by
  obtain ⟨hopc, hzero⟩ := (matchesRow_iff k w).mp h
  simp [decodeCommand_of_opcode hopc, needZero, hzero]

theorem decodeCommand_of_opcode_gt {w : Word} (h : 8 < (opcField w).toNat) :
    decodeCommand w = .error (.unknownOpcode (cmdInfo w)) := by
  unfold decodeCommand
  split
  case h_10 => rfl
  all_goals omega

theorem decodeCommand_of_no_row {w : Word} (hopc : (opcField w).toNat ≤ 8) (h : ∀ k, ¬MatchesRow k w) :
    decodeCommand w = .error (.reservedBits (cmdInfo w)) := by
  have hk : (opcField w).toNat = (⟨(opcField w).toNat, by omega⟩ : Fin 9).val := rfl
  have hzero : reservedField _ w ≠ 0 := fun hz => h _ ((matchesRow_iff _ w).mpr ⟨hk, hz⟩)
  rw [decodeCommand_of_opcode hk, needZero, if_neg (by simpa using hzero)]

/-- A word decodes to a command exactly when it matches a row whose command it is. -/
theorem decodeCommand_eq_ok_iff {w : Word} {c : Command} :
    decodeCommand w = .ok c ↔ ∃ k, MatchesRow k w ∧ rowCommand k w = c := by
  constructor
  · intro h
    by_cases hrow : ∃ k, MatchesRow k w
    · obtain ⟨k, hk⟩ := hrow
      rw [decodeCommand_of_matchesRow hk] at h
      exact ⟨k, hk, Except.ok.inj h⟩
    · rw [not_exists] at hrow
      rcases Nat.lt_or_ge 8 (opcField w).toNat with hopc | hopc
      · simp [decodeCommand_of_opcode_gt hopc] at h
      · simp [decodeCommand_of_no_row hopc hrow] at h
  · rintro ⟨k, hk, rfl⟩
    exact decodeCommand_of_matchesRow hk

/-- A word decodes to c exactly when it matches c's row and carries c's operand. -/
theorem decodeCommand_eq_ok_iff_row {w : Word} {c : Command} :
    decodeCommand w = .ok c ↔ MatchesRow c.row w ∧ rowCommand c.row w = c := by
  rw [decodeCommand_eq_ok_iff]
  constructor
  · rintro ⟨k, hk, rfl⟩
    rw [row_rowCommand]
    exact ⟨hk, rfl⟩
  · exact fun h => ⟨c.row, h⟩

/-- Settles O3: row by row, with the operand of the commands that have one. -/
theorem commandWordsFollowOpcodeMap : Obligations.CommandWordsFollowOpcodeMap := by
  intro w
  refine ⟨?nop, ?prepare, fun tag => ?canplay, fun note => ?startnote, fun tail => ?stopnote, ?setparams, ?render,
    ?isactive, fun cc => ?ctrl⟩
  all_goals refine decodeCommand_eq_ok_iff_row.trans ?_
  case nop | prepare | setparams | render | isactive => exact and_iff_left rfl
  case canplay | startnote | stopnote | ctrl =>
    exact and_congr Iff.rfl (by simp [Command.row, rowCommand, immField, imm7, immBit0, eq_comm])

/-! A write to CMD. -/

theorem exec_busWrite_cmd (w : Word) (s : State) : exec (.busWrite 0x000 w) s = writeCmd w s := rfl

/-- A decoded command runs as the instruction it is. -/
theorem runCommand_eq_exec (c : Command) (s : State) : runCommand c s = exec c.toInstr s := by
  cases c <;> rfl

theorem exec_busWrite_cmd_of_ok {w : Word} {c : Command} (h : decodeCommand w = .ok c) (s : State) :
    exec (.busWrite 0x000 w) s = exec c.toInstr s := by
  rw [exec_busWrite_cmd, writeCmd, h]
  exact runCommand_eq_exec c s

theorem exec_busWrite_cmd_of_error {w : Word} {r : Reject} (h : decodeCommand w = .error r) (s : State) :
    exec (.busWrite 0x000 w) s = runReject r s := by
  rw [exec_busWrite_cmd, writeCmd, h]

/-- The machine's refusal is R384's. -/
theorem takeRefusal_refused (flag : ErrFlag) (cause : BitVec 8) (info : BitVec 24) (s : State) :
    Refused flag cause info s (takeRefusal flag cause info s) := by
  cases flag <;> simp [Refused, takeRefusal, setErrFlag] <;> rfl

theorem takeRefusal_memoryKept (flag : ErrFlag) (cause : BitVec 8) (info : BitVec 24) (s : State) :
    memoryKept s (takeRefusal flag cause info s) :=
  refusalFrame_memoryKept (takeRefusal_refusalFrame flag cause info s)

/-- Settles O4: the three outcomes by the decoder's answer for the word. -/
theorem cmdWriteDecodesOrRefuses : Obligations.CmdWriteDecodesOrRefuses := by
  intro w s
  simp only [forall_mem_opcodeRows]
  refine ⟨fun hopc => ?unknown, fun hopc hrow => ?reserved, fun k hk => ⟨?runs, fun j hj => ?unique⟩⟩
  case unknown =>
    exact ⟨_, exec_busWrite_cmd_of_error (decodeCommand_of_opcode_gt hopc) s, takeRefusal_refused ..,
      takeRefusal_memoryKept ..⟩
  case reserved =>
    exact ⟨_, exec_busWrite_cmd_of_error (decodeCommand_of_no_row hopc hrow) s, takeRefusal_refused ..,
      takeRefusal_memoryKept ..⟩
  case runs =>
    have hdec := decodeCommand_of_matchesRow hk
    exact ⟨_, hdec, exec_busWrite_cmd_of_ok hdec s⟩
  case unique =>
    rw [matchesRow_unique hj hk]

end Sys2Proof
end

section
/-! OP.RESET and OP.PREPARE (R201, R202): what the operator holds afterwards, and what the write leaves alone. -/

namespace Sys2Proof

open Sys2Proof.Machine Sys2Proof.Claims

theorem delayRead_setOp_ne {i j : OpIdx} (h : i ≠ j) (o : Operator) (k : DelayIdx) (s : State) :
    delayRead j k (setOp i o s) = delayRead j k s := by
  unfold delayRead
  rw [setOp_op_ne h]

theorem exec_opReset (i : OpIdx) (s : State) : exec (.opReset i) s = .next (setOp i Operator.zero s) := rfl

/-- An operator is cleared when it is the zero operator, whose delay RAM lists no word and so reads +0.0 everywhere. -/
theorem operatorCleared_of_op_eq_zero {i : OpIdx} {t : State} (h : t.op[i] = Operator.zero) : OperatorCleared i t := by
  unfold OperatorCleared delayRead
  rw [h]
  exact ⟨rfl, rfl, rfl, rfl, fun _ => rfl⟩

/-- Settles O13: both operations put the zero operator at i, a write that reaches no other operator and no OUTBUF word. -/
theorem operatorResetClearsOneOperator : Obligations.OperatorResetClearsOneOperator := by
  intro s i
  refine ⟨⟨_, exec_opReset i s, ?cleared, rfl, fun j hj => ⟨?op, fun k => ?delay⟩, fun _ => rfl⟩, rfl⟩
  case cleared => exact operatorCleared_of_op_eq_zero (setOp_op_self i _ s)
  case op => exact setOp_op_ne hj.symm _ s
  case delay => exact delayRead_setOp_ne hj.symm _ k s

end Sys2Proof
end

section
/-! The note events of an envelope (R253, R259, R260): each writes one envelope, from whatever stage it finds, and none
touches memory. -/

namespace Sys2Proof

open Sys2Proof.Machine Sys2Proof.Claims

/-- The machine's own draws are a supply of quiet NaNs (R156). -/
theorem nan_NaNs (s : State) : NaNs s.nan := fun k => ⟨s.nan_isNaN k, s.nan_quiet k⟩

theorem drew_setEnv_memoryKept (n : Nat) (e : EnvIdx) (x : Envelope) (s : State) :
    memoryKept s (drew n (setEnv e x s)) :=
  ⟨fun _ => rfl, fun _ _ => rfl⟩

/-- The machine's release decrement is R259's. -/
theorem releaseDec_eq_releaseDecrement (nan : F32) (x : Envelope) : releaseDec nan x = releaseDecrement nan x := rfl

theorem exec_envNoteon (e : EnvIdx) (s : State) :
    exec (.envNoteon e) s = .next (setEnv e
      { s.env[e] with stage := .attack, level := if s.env[e].retrig then fZero else s.env[e].level } s) := rfl

theorem exec_envNoteoff (e : EnvIdx) (s : State) :
    exec (.envNoteoff e) s = .next (drew 1 (setEnv e
      { s.env[e] with stage := .release, rDec := releaseDecrement (s.nan 0) s.env[e] } s)) := by
  rw [← releaseDec_eq_releaseDecrement]
  rfl

theorem exec_envKill (e : EnvIdx) (s : State) :
    exec (.envKill e) s = .next (setEnv e { s.env[e] with stage := .idle, level := fZero } s) := rfl

/-- Settles O20: each event is a write of envelope e computed from the latched envelope; ENV.NOTEOFF alone may draw a
NaN, for the quotient of its decrement. -/
theorem envelopeNoteEvents : Obligations.EnvelopeNoteEvents := by
  intro s e
  refine ⟨?noteon, ⟨s.nan, _, nan_NaNs s, exec_envNoteoff e s, ?noteoffFrame, ?noteoffMemory⟩, ?kill⟩
  case noteon => exact exec_envNoteon e s
  case noteoffFrame => rfl
  case noteoffMemory => exact drew_setEnv_memoryKept 1 e _ s
  case kill => exact exec_envKill e s

end Sys2Proof
end

section
/-! LFO.SYNC (R281): one write of the phase, guarded by the sync flag of the active snapshot. -/

namespace Sys2Proof

open Sys2Proof.Machine

theorem exec_lfoSync (k : LfoIdx) (s : State) : exec (.lfoSync k) s = .next (lfoSyncStep k s) := rfl

theorem lfoSyncStep_of_sync {k : LfoIdx} {s : State} (h : s.act.lfo[k].sync = true) :
    lfoSyncStep k s = setLph k fZero s := if_pos h

theorem lfoSyncStep_of_not_sync {k : LfoIdx} {s : State} (h : s.act.lfo[k].sync = false) :
    lfoSyncStep k s = s := if_neg (Bool.eq_false_iff.mp h)

/-- Settles O22, by the two values of the flag; in the first, the machine's write of +0.0 is by definition the record
update of the statement. -/
theorem lfoSyncFollowsFlag : Obligations.LfoSyncFollowsFlag := by
  intro s k
  refine ⟨fun hsync => ?zeroed, fun hsync => ?unchanged⟩
  case zeroed =>
    rw [exec_lfoSync, lfoSyncStep_of_sync hsync]
    rfl
  case unchanged => rw [exec_lfoSync, lfoSyncStep_of_not_sync hsync]

end Sys2Proof
end

section
/-! PROOFS. The commands that only answer, and the two instructions that do nothing: NOP (R340), CANPLAY (R347),
ISACTIVE (R348) and the destination word 0 (R124, R233). Settles O36. -/

namespace Sys2Proof

open Sys2Proof.Machine

theorem exec_nop (s : State) : exec .nop s = .next s := rfl

theorem exec_destNone (site : DestSite) (s : State) : exec (.destNone site) s = .next s := rfl

theorem exec_canplay (tag : BitVec 24) (s : State) :
    exec (.canplay tag) s = .next { s with result := resultWord (tag == Config.params.soundTag) } := rfl

theorem exec_isactive (s : State) :
    exec .isactive s = .next { s with result := resultWord (voiceActive s) } := rfl

theorem resultWord_of_iff {b : Bool} {p : Prop} [Decidable p] (h : b = true ↔ p) :
    resultWord b = if p then 1 else 0 := if_congr h rfl rfl

theorem resultWord_of_not_iff {b : Bool} {p : Prop} [Decidable p] (h : b = true ↔ ¬p) :
    resultWord b = if p then 0 else 1 := (resultWord_of_iff h).trans (ite_not ..)

/-- CANPLAY's test: the one tag this instance renders is the number 1. -/
theorem beq_soundTag_iff (tag : BitVec 24) : (tag == Config.params.soundTag) = true ↔ tag.toNat = 1 :=
  beq_iff_eq.trans BitVec.toNat_inj.symm

/-- ISACTIVE's test: every voice state but Idle counts as active. -/
theorem voiceActive_iff (s : State) : voiceActive s = true ↔ s.vstate ≠ .idle := bne_iff_ne

/-- Settles O36: the four equations of exec, with the two answers read off the tests of CANPLAY and ISACTIVE. -/
theorem answersAndInertInstructions : Obligations.AnswersAndInertInstructions := by
  intro s
  refine ⟨exec_nop s, fun site => exec_destNone site s, fun tag => ?canplay, ?isactive⟩
  case canplay => rw [exec_canplay, resultWord_of_iff (beq_soundTag_iff tag)]
  case isactive => rw [exec_isactive, resultWord_of_not_iff (voiceActive_iff s)]

end Sys2Proof
end

section
/-! PROOFS. What a step can do, said once: the effect of each command, of the destination words, and of the request a
step serves. The invariants and the rules of the whole machine are read off these cases. Settles O5. -/

namespace Sys2Proof

open Sys2Proof.Machine Sys2Proof.Claims

/-! The destination words (R124). -/

/-- The decoder's table of destination words is the word 0 and then the words of the claims. -/
theorem destInstrs_eq : destInstrsLow ++ destInstrsCells =
    .destNone :: (gainWords.map Prod.fst ++ ratioWords.map Prod.fst ++ ctx1Words.map Prod.fst ++
      cellWords.map Prod.fst) := rfl

theorem exec_gainWord (site : DestSite) (s : State) : ∀ p ∈ gainWords, exec (p.1 site) s = toGain p.2 site s := by
  simp only [gainWords, List.forall_mem_cons, List.not_mem_nil, false_implies, implies_true, and_true]
  exact ⟨rfl, rfl, rfl, rfl, rfl, rfl⟩

theorem exec_ratioWord (site : DestSite) (s : State) : ∀ p ∈ ratioWords, exec (p.1 site) s = toRatio p.2 site s := by
  simp only [ratioWords, List.forall_mem_cons, List.not_mem_nil, false_implies, implies_true, and_true]
  exact ⟨rfl, rfl, rfl, rfl, rfl, rfl⟩

theorem exec_ctx1Word (site : DestSite) (s : State) : ∀ p ∈ ctx1Words, exec (p.1 site) s = toCtx1 p.2 site s := by
  simp only [ctx1Words, List.forall_mem_cons, List.not_mem_nil, false_implies, implies_true, and_true]
  exact ⟨rfl, rfl, rfl, rfl, rfl, rfl⟩

theorem exec_cellWord (site : DestSite) (s : State) :
    ∀ p ∈ cellWords, exec (p.1 site) s = toCell p.2.1 p.2.2 site s := by
  simp only [cellWords, List.forall_mem_cons, List.not_mem_nil, false_implies, implies_true, and_true]
  repeat' apply And.intro
  all_goals rfl

/-- A destination word changes transient values only. -/
theorem exec_destInstr (d : Dest) (site : DestSite) (s : State) :
    ∃ t, exec (destInstr d site) s = .next t ∧ seqFrame s t := by
  suffices h : ∀ g ∈ destInstrsLow ++ destInstrsCells, ∃ t, exec (g site) s = .next t ∧ seqFrame s t from
    h _ (List.getElem_mem _)
  simp only [destInstrs_eq, List.forall_mem_cons, List.forall_mem_append, List.forall_mem_map]
  refine ⟨⟨s, rfl, seqFrame_refl s⟩, ⟨⟨?gain, ?ratio⟩, ?ctx1⟩, ?cell⟩
  case gain =>
    exact fun p hp => ⟨_, exec_gainWord site s p hp, seqFrame_trans (accumulate_seqFrame ..) (latchGain_seqFrame ..)⟩
  case ratio =>
    exact fun p hp => ⟨_, exec_ratioWord site s p hp, seqFrame_trans (accumulate_seqFrame ..) (latchRatio_seqFrame ..)⟩
  case ctx1 =>
    exact fun p hp => ⟨_, exec_ctx1Word site s p hp, seqFrame_trans (accumulate_seqFrame ..) (latchCtx1_seqFrame ..)⟩
  case cell =>
    exact fun p hp => ⟨_, exec_cellWord site s p hp, seqFrame_trans (accumulate_seqFrame ..) (latchCell_seqFrame ..)⟩

/-! The commands (46_commands.md). -/

/-- What a command can do to a state: nothing, one refusal with the cause of its flag (R385), or its own effect, with
the checks it has passed. -/
inductive CommandEffect (s : State) : Command → State → Prop where
  | unchanged (c : Command) : CommandEffect s c s
  | refused (c : Command) (flag : ErrFlag) (cause : BitVec 8) (info : BitVec 24) (h : causeFlag cause = some flag) :
      CommandEffect s c (takeRefusal flag cause info s)
  | prepare (hrate : rateBad (rateOperand s) = false) (hsize : blockSizeBad (blockSizeOperand s) = false) :
      CommandEffect s .prepare (prepareVoice
        { s with fs := f64ToF32 (s.nan 0) (rateOperand s),
                 blockSize := BitVec.ofNat Config.params.blockBits (blockSizeOperand s) })
  | canplay (tag : BitVec 24) (answer : Word) : CommandEffect s (.canplay tag) { s with result := answer }
  | startnote (note : BitVec 7) : CommandEffect s (.startnote note) (startVoice note s)
  | release (h : s.vstate ≠ .idle) : CommandEffect s (.stopnote true) (releaseVoice s)
  | cut : CommandEffect s (.stopnote false) (cutVoice s)
  | setparams (h : firstStageFault s = none) : CommandEffect s .setparams (publish s)
  | render (count : Nat) : CommandEffect s .render (setSeq Seq.idle (renderFrames count 0 s))
  | isactive (answer : Word) : CommandEffect s .isactive { s with result := answer }
  | ctrl (h : isFinite s.arg0 = true) : CommandEffect s (.ctrl 1) { s with mw := s.arg0 }

/-- The cause and flag of a STAGE word's refusal go together (R385). -/
theorem causeFlag_of_firstStageFault {s : State} {cause : BitVec 8} {a : Nat}
    (h : firstStageFault s = some (cause, a)) : causeFlag cause = some .cfgErr := by
  obtain ⟨b, -, hb⟩ := List.exists_of_findSome?_eq_some h
  unfold stageFault at hb
  split at hb
  next => cases hb
  next kind _ =>
    obtain ⟨cause', hcause', heq⟩ := Option.map_eq_some_iff.mp hb
    cases heq
    cases kind <;> simp only [fieldFault, Option.ite_none_left_eq_some, Option.ite_none_right_eq_some,
      Option.some.injEq, reduceCtorEq] at hcause'
    all_goals
      obtain ⟨-, rfl⟩ := hcause'
      rfl

theorem exec_setparams_of_fault {s : State} {cause : BitVec 8} {a : Nat} (h : firstStageFault s = some (cause, a)) :
    exec .setparams s = .next (takeRefusal .cfgErr cause (BitVec.ofNat 24 a) s) := by
  show execSetparams s = _
  rw [execSetparams, h]

theorem exec_setparams_of_legal {s : State} (h : firstStageFault s = none) : exec .setparams s = .next (publish s) := by
  show execSetparams s = _
  rw [execSetparams, h]

/-- Every command completes, with one of the effects above. -/
theorem exec_command (c : Command) (s : State) : ∃ t, exec c.toInstr s = .next t ∧ CommandEffect s c t := by
  cases c with
  | nop => exact ⟨_, rfl, .unchanged _⟩
  | canplay tag => exact ⟨_, rfl, .canplay tag _⟩
  | isactive => exact ⟨_, rfl, .isactive _⟩
  | prepare =>
    show ∃ t, execPrepare s = .next t ∧ _
    unfold execPrepare
    simp only
    split
    next => exact ⟨_, rfl, .refused _ _ _ _ rfl⟩
    next hrate =>
      split
      next => exact ⟨_, rfl, .refused _ _ _ _ rfl⟩
      next hsize => exact ⟨_, rfl, .prepare (by simpa using hrate) (by simpa using hsize)⟩
  | startnote note =>
    show ∃ t, execStartnote note s = .next t ∧ _
    unfold execStartnote
    split
    · exact ⟨_, rfl, .startnote note⟩
    · exact ⟨_, rfl, .refused _ _ _ _ rfl⟩
  | stopnote tail =>
    cases tail with
    | false => exact ⟨_, rfl, .cut⟩
    | true =>
      show ∃ t, (if voiceActive s then _ else _) = Host.Outcome.next t ∧ _
      split
      next hactive => exact ⟨_, rfl, .release ((voiceActive_iff s).mp hactive)⟩
      next => exact ⟨_, rfl, .unchanged _⟩
  | setparams =>
    cases h : firstStageFault s with
    | none => exact ⟨_, exec_setparams_of_legal h, .setparams h⟩
    | some fault => exact ⟨_, exec_setparams_of_fault h, .refused _ _ _ _ (causeFlag_of_firstStageFault h)⟩
  | render =>
    show ∃ t, execRender s = .next t ∧ _
    unfold execRender
    split
    next => exact ⟨_, rfl, .refused _ _ _ _ rfl⟩
    next =>
      split
      · exact ⟨_, rfl, .refused _ _ _ _ rfl⟩
      · exact ⟨_, rfl, .render _⟩
  | ctrl cc =>
    show ∃ t, execCtrl cc s = .next t ∧ _
    unfold execCtrl
    split
    next hcc =>
      subst hcc
      split
      next hfin => exact ⟨_, rfl, .ctrl hfin⟩
      next => exact ⟨_, rfl, .refused _ _ _ _ rfl⟩
    next => exact ⟨_, rfl, .unchanged _⟩

/-! The step. -/

theorem popRequest_of_requests {s : State} {r : Request} {rest : List Request} (h : s.requests = r :: rest) :
    s.popRequest = { s with requests := rest } := by
  rw [State.popRequest, h, List.tail_cons]

theorem step_of_requests {s : State} {r : Request} {rest : List Request} (h : s.requests = r :: rest) :
    step s = serve r { s with requests := rest } := by
  rw [← popRequest_of_requests h]
  simp only [step, h]

theorem step_of_no_request {s : State} (h : s.requests = []) : step s = .next s := by
  simp only [step, h]

theorem serve_of_ok {r : Request} {i : Instr} (h : decode r = .ok i) (s : State) : serve r s = exec i s := by
  simp only [serve, h]

theorem serve_of_error {r : Request} {e : Reject} (h : decode r = .error e) (s : State) :
    serve r s = runReject e s := by
  simp only [serve, h]

/-- Settles O5, by the decoder's answer for the first request. -/
theorem stepServesFirstRequest : Obligations.StepServesFirstRequest := by
  refine ⟨fun s h => step_of_no_request h, fun s r rest h => ⟨fun i hi => ?ok, fun info hi => ?opcode,
    fun info hi => ?bits, fun site w hi => ?selector⟩⟩
  all_goals rw [step_of_requests h]
  case ok => exact serve_of_ok hi _
  case opcode => exact ⟨_, serve_of_error hi _, takeRefusal_refused ..⟩
  case bits => exact ⟨_, serve_of_error hi _, takeRefusal_refused ..⟩
  case selector => exact serve_of_error hi _

/-- What a step can do. But for the reset and the commands it changes the answer of a bus read, one word of memory
(R83), the registers of one mode body (R203), or transient values. -/
inductive StepEffect (s : State) : State → Prop where
  | idle : StepEffect s s
  | reset (h : RunsReset s) : StepEffect s (hwresetStep s.popRequest)
  | read (v : Word) : StepEffect s { s.popRequest with rdata := v }
  | write (a : Nat) (v : Word) : StepEffect s (busStore a v s.popRequest)
  | command {c : Command} {t : State} (h : Runs s c) (he : CommandEffect s.popRequest c t) : StepEffect s t
  | badCommand (cause : BitVec 8) (info : BitVec 24) (h : causeFlag cause = some .cmdErr) :
      StepEffect s (takeRefusal .cmdErr cause info s.popRequest)
  | oscillator (i : OpIdx) : StepEffect s (oscStep i s.popRequest)
  | lowPass (i : OpIdx) : StepEffect s (lpfStep i s.popRequest)
  | comb (i : OpIdx) : StepEffect s (combStep i s.popRequest)
  | transient {t : State} (h : seqFrame s.popRequest t) : StepEffect s t

theorem stepEffect_of_reject {s t : State} {e : Reject} (h : runReject e s.popRequest = .next t) : StepEffect s t := by
  cases e <;> cases h
  · exact .badCommand _ _ rfl
  · exact .badCommand _ _ rfl

theorem stepEffect_of_selector {s t : State} {site : Site} {w : Word} {i : Instr} (hdec : decodeSelector site w = .ok i)
    (h : exec i s.popRequest = .next t) : StepEffect s t := by
  cases site with
  | mode k =>
    simp only [decodeSelector] at hdec
    split at hdec <;> cases hdec <;> cases h
    · exact .oscillator k
    · exact .lowPass k
    · exact .comb k
    · exact .transient (passStep_seqFrame _)
  | wave k =>
    simp only [decodeSelector] at hdec
    split at hdec <;> cases hdec <;> cases h <;> exact .transient rfl
  | src j =>
    simp only [decodeSelector] at hdec
    split at hdec <;> cases hdec <;> cases h <;> exact .transient rfl
  | envsrc k =>
    simp only [decodeSelector] at hdec
    split at hdec <;> cases hdec <;> cases h <;> exact .transient rfl
  | dest site =>
    simp only [decodeSelector] at hdec
    split at hdec <;> cases hdec
    obtain ⟨u, hu, hframe⟩ := exec_destInstr _ site s.popRequest
    rw [hu] at h
    cases h
    exact .transient hframe

/-- A write to CMD of a word that decodes is the command. -/
theorem decode_write_cmd_eq_ok {a : Nat} {v : Word} (h : a = cmdAddr) :
    decode (.write a v) = (decodeCommand v).map Command.toInstr := if_pos h

theorem decode_write_of_ne {a : Nat} {v : Word} (h : a ≠ cmdAddr) : decode (.write a v) = .ok (.busWrite a v) :=
  if_neg h

theorem exec_busRead_of_ok {a : Nat} (h : busAddressOk a = true) (s : State) :
    exec (.busRead a) s = .next { s with rdata := busValue a s } := if_pos h

theorem exec_busWrite_of_ok {a : Nat} (h : busAddressOk a = true) (hcmd : a ≠ cmdAddr) (v : Word) (s : State) :
    exec (.busWrite a v) s = .next (busStore a v s) := by
  show execBusWrite a v s = _
  simp only [execBusWrite, h, hcmd, Bool.not_true, Bool.false_eq_true, if_false]

theorem exec_busRead_fault {a : Nat} (h : busAddressOk a = false) (s : State) :
    exec (.busRead a) s = .fault (.noSuchAddress a) := if_neg (Bool.eq_false_iff.mp h)

theorem exec_busWrite_fault {a : Nat} (h : busAddressOk a = false) (v : Word) (s : State) :
    exec (.busWrite a v) s = .fault (.noSuchAddress a) := by
  show execBusWrite a v s = _
  simp only [execBusWrite, h, Bool.not_false, if_true]

/-- Every step that goes on has one of the effects above. -/
theorem stepEffect_of_step {s t : State} (h : step s = .next t) : StepEffect s t := by
  cases hreq : s.requests with
  | nil =>
    rw [step_of_no_request hreq] at h
    cases h
    exact .idle
  | cons r rest =>
    rw [step_of_requests hreq, ← popRequest_of_requests hreq] at h
    cases r with
    | reset =>
      cases h
      exact .reset ⟨rest, hreq⟩
    | read a =>
      rw [serve_of_ok (i := .busRead a) rfl] at h
      cases ha : busAddressOk a with
      | true =>
        rw [exec_busRead_of_ok ha] at h
        cases h
        exact .read _
      | false => rw [exec_busRead_fault ha] at h; cases h
    | write a v =>
      by_cases hcmd : a = cmdAddr
      · subst hcmd
        cases hdec : decodeCommand v with
        | error e =>
          rw [serve_of_error (e := e) (by rw [decode_write_cmd_eq_ok rfl, hdec]; rfl)] at h
          exact stepEffect_of_reject h
        | ok c =>
          rw [serve_of_ok (i := c.toInstr) (by rw [decode_write_cmd_eq_ok rfl, hdec]; rfl)] at h
          obtain ⟨u, hu, heff⟩ := exec_command c s.popRequest
          rw [hu] at h
          cases h
          exact .command ⟨v, rest, hreq, hdec⟩ heff
      · rw [serve_of_ok (decode_write_of_ne hcmd)] at h
        cases ha : busAddressOk a with
        | true =>
          rw [exec_busWrite_of_ok ha hcmd] at h
          cases h
          exact .write a v
        | false => rw [exec_busWrite_fault ha] at h; cases h
    | select site w =>
      cases hdec : decodeSelector site w with
      | error e => exact stepEffect_of_reject (by rwa [serve_of_error (r := .select site w) hdec] at h)
      | ok i => exact stepEffect_of_selector hdec (by rwa [serve_of_ok (r := .select site w) hdec] at h)

end Sys2Proof
end

section
/-! PROOFS. The voice commands in closed form: what the loops of PREPARE, STARTNOTE and STOPNOTE over the operators, the
envelopes and the LFOs leave (R341, R343, R344). -/

namespace Sys2Proof

open Sys2Proof.Machine Sys2Proof.Claims

/-! Two writes that cover a register file of two. -/

theorem set_both {α : Type} (f : Fin 2 → α) (v : Vector α 2) : (v.set 0 (f 0)).set 1 (f 1) = Vector.ofFn f := by
  ext i hi
  match i, hi with
  | 0, _ => simp
  | 1, _ => simp

theorem setEnv_both (f : EnvIdx → Envelope) (s : State) :
    setEnv 1 (f 1) (setEnv 0 (f 0) s) = { s with env := Vector.ofFn f } := by
  rw [← set_both f s.env]; rfl

theorem setLph_both (f : LfoIdx → F32) (s : State) :
    setLph 1 (f 1) (setLph 0 (f 0) s) = { s with lph := Vector.ofFn f } := by
  rw [← set_both f s.lph]; rfl

@[simp] theorem getElem_ofFn_fin {α : Type} {n : Nat} (f : Fin n → α) (i : Fin n) : (Vector.ofFn f)[i] = f i := by
  simp

@[simp] theorem getElem_replicate_fin {α : Type} {n : Nat} (x : α) (i : Fin n) : (Vector.replicate n x)[i] = x := by
  simp

/-! Draws after a draw. -/

theorem drew_nan (n : Nat) (s : State) : (drew n s).nan = s.nanFrom n := by
  funext k
  simp only [State.nan, State.nanFrom, drew_draws, Nat.add_assoc]

theorem nanFrom_zero (s : State) : s.nanFrom 0 = s.nan := by
  funext k
  rw [State.nanFrom, Nat.zero_add]

theorem nanFrom_NaNs (n : Nat) (s : State) : NaNs (s.nanFrom n) := fun k => nan_NaNs s (n + k)

/-! OP.RESET on every operator. -/

theorem resetStep_resetStep (i : OpIdx) (s : State) : resetStep i (resetStep i s) = resetStep i s := by
  simp only [resetStep, setOp, Vector.set_set]

/-- PREPARE's loop over the operators, with OP.PREPARE before OP.RESET (R201), is the loop of OP.RESET. -/
theorem prepareOps_eq (s : State) :
    allOps.foldl (fun t i => resetStep i (prepareStep i t)) s = resetAllOps s := by
  simp only [prepareStep, resetStep_resetStep]
  rfl

theorem resetAllOps_eq (s : State) : resetAllOps s = { s with op := Vector.replicate 6 Operator.zero } := by
  have hframe : resetAllOps s = { s with op := (resetAllOps s).op } :=
    foldl_keeps (fun t => t = { s with op := t.op }) (fun t i ht => by rw [ht]; rfl) allOps rfl
  rw [hframe]
  congr 1
  ext1 i hi
  have hops : resetAllOps s = resetStep 5 (resetStep 4 (resetStep 3 (resetStep 2 (resetStep 1 (resetStep 0 s))))) := rfl
  have hi : (resetAllOps s).op[(⟨i, hi⟩ : OpIdx)] = Operator.zero := by
    rw [hops]
    simp only [resetStep, setOp_op]
    generalize (⟨i, hi⟩ : OpIdx) = j
    fin_cases j <;> rfl
  simpa using hi

/-! Both envelopes. -/

/-- ENV.KILL on one envelope (R260). -/
def killedEnv (x : Envelope) : Envelope := { x with stage := .idle, level := fZero }

/-- ENV.NOTEON on one envelope (R253). -/
def attackingEnv (x : Envelope) : Envelope := { x with stage := .attack, level := if x.retrig then fZero else x.level }

/-- ENV.NOTEOFF on one envelope (R259). -/
def releasingEnv (nan : F32) (x : Envelope) : Envelope := { x with stage := .release, rDec := releaseDec nan x }

/-- A loop that rewrites each envelope from what it finds there. -/
theorem setEnv_each (f : EnvIdx → Envelope → Envelope) (s : State) :
    setEnv 1 (f 1 (setEnv 0 (f 0 s.env[(0 : EnvIdx)]) s).env[(1 : EnvIdx)]) (setEnv 0 (f 0 s.env[(0 : EnvIdx)]) s) =
      { s with env := Vector.ofFn fun e => f e s.env[e] } := by
  rw [setEnv_env_ne (by decide)]
  exact setEnv_both (fun e => f e s.env[e]) s

theorem killBoth_eq (s : State) : killBoth s = { s with env := Vector.ofFn fun e => killedEnv s.env[e] } :=
  setEnv_each (fun _ => killedEnv) s

theorem noteonBoth_eq (s : State) : allEnvs.foldl (fun t e => envNoteonStep e t) s =
    { s with env := Vector.ofFn fun e => attackingEnv s.env[e] } :=
  setEnv_each (fun _ => attackingEnv) s

theorem noteoffBoth_eq (s : State) : allEnvs.foldl (fun t e => envNoteoffStep e t) s =
    { s with env := Vector.ofFn fun e => releasingEnv (s.nan e.val) s.env[e], draws := s.draws + 2 } :=
  congrArg (drew 2) (setEnv_each (fun e => releasingEnv (s.nan e.val)) s)

theorem loadBoth_eq (s : State) : allEnvs.foldl (fun t e => envLoadStep e t) s =
    { s with
      env := Vector.ofFn fun e => loadEnvelope (s.nanFrom (6 * e.val)) s.fs s.act.env[e] s.env[e]
      draws := s.draws + 12 } := by
  have each := setEnv_each (fun e => loadEnvelope (s.nanFrom (6 * e.val)) s.fs s.act.env[e]) s
  have first : s.nanFrom (6 * (0 : EnvIdx).val) = s.nan := nanFrom_zero s
  have second : s.nanFrom (6 * (1 : EnvIdx).val) = (drew 6 s).nan := (drew_nan 6 s).symm
  simp only [first, second] at each
  exact congrArg (drew 12) each

/-! Both LFOs. -/

/-- LFO.SYNC on one phase (R281). -/
def syncedPhase (sync : Bool) (x : F32) : F32 := if sync then fZero else x

theorem lfoSyncStep_eq (k : LfoIdx) (s : State) :
    lfoSyncStep k s = setLph k (syncedPhase s.act.lfo[k].sync s.lph[k]) s := by
  unfold lfoSyncStep syncedPhase
  split
  · rfl
  · simp [setLph]

theorem syncBoth_eq (s : State) : allLfos.foldl (fun t k => lfoSyncStep k t) s =
    { s with lph := Vector.ofFn fun k => syncedPhase s.act.lfo[k].sync s.lph[k] } := by
  have hsync : allLfos.foldl (fun t k => lfoSyncStep k t) s = lfoSyncStep 1 (lfoSyncStep 0 s) := rfl
  have h1 := setLph_lph 0 1 (syncedPhase s.act.lfo[(0 : LfoIdx)].sync s.lph[(0 : LfoIdx)]) s
  rw [if_neg (by decide)] at h1
  rw [hsync, lfoSyncStep_eq, lfoSyncStep_eq, h1]
  exact setLph_both (fun k => syncedPhase s.act.lfo[k].sync s.lph[k]) s

/-! The commands. -/

/-- The voice part of PREPARE (R341). -/
theorem prepareVoice_eq (s : State) : prepareVoice s =
    { s with op := Vector.replicate 6 Operator.zero, opout := Vector.replicate 6 fZero,
             env := Vector.ofFn fun e => killedEnv s.env[e], lph := Vector.replicate 2 fZero,
             vstate := .idle, done := false, prepared := true } := by
  unfold prepareVoice
  simp only
  rw [prepareOps_eq, resetAllOps_eq, killBoth_eq]
  rfl

/-- STARTNOTE on a prepared block (R343). -/
theorem startVoice_eq (note : BitVec 7) (s : State) : startVoice note s =
    { s with noteHz := noteHzOf note,
             env := Vector.ofFn fun e =>
               attackingEnv (loadEnvelope (s.nanFrom (6 * e.val)) s.fs s.act.env[e] s.env[e]),
             lph := Vector.ofFn fun k => syncedPhase s.act.lfo[k].sync s.lph[k],
             op := Vector.replicate 6 Operator.zero, opout := Vector.replicate 6 fZero,
             vstate := .active, done := false, draws := s.draws + 12 } := by
  unfold startVoice
  simp only
  rw [loadBoth_eq, syncBoth_eq, resetAllOps_eq, noteonBoth_eq]
  simp only [clearOpout, getElem_ofFn_fin]
  rfl

/-- The release of a sounding voice (R344). -/
theorem releaseVoice_eq (s : State) : releaseVoice s =
    { s with env := Vector.ofFn fun e => releasingEnv (s.nan e.val) s.env[e], vstate := .releasing,
             draws := s.draws + 2 } := by
  unfold releaseVoice
  rw [noteoffBoth_eq]

/-- The hard cut (R344). -/
theorem cutVoice_eq (s : State) : cutVoice s =
    { s with env := Vector.ofFn fun e => killedEnv s.env[e], vstate := .idle } := by
  unfold cutVoice
  rw [killBoth_eq]

end Sys2Proof
end

section
/-! PROOFS. What the commands and the bus writes leave alone, and the rules of the whole machine that follow: the error
flags (R385, R391), the sole writers of the registers (R25, R28, R29, R32, R40), the voice state (R300). Settles O6, O7,
O49, O50. -/

namespace Sys2Proof

open Sys2Proof.Machine Sys2Proof.Claims

/-! Frames of the commands. -/

/-- RENDER writes only what R345 lets it write. -/
theorem render_renderWrites (count : Nat) (s : State) :
    renderWrites s (setSeq Seq.idle (renderFrames count 0 s)) :=
  renderWrites_trans (renderFrames_renderWrites count 0 s) rfl

/-- What OP.OSC and OP.LPF change besides their operator. -/
theorem oscStep_frame (i : OpIdx) (s : State) : oscStep i s =
    { s with op := (oscStep i s).op, seq := { s.seq with out := (oscStep i s).seq.out }, draws := s.draws + 14 } :=
  drew_setOut_setOp_frame 14 _ i _ s

theorem lpfStep_frame (i : OpIdx) (s : State) : lpfStep i s =
    { s with op := (lpfStep i s).op, seq := { s.seq with out := (lpfStep i s).seq.out }, draws := s.draws + 26 } :=
  drew_setOut_setOp_frame 26 _ i _ s

theorem stageWrite_frame (a : Nat) (v : Word) (s : State) :
    stageWrite a v s = { s with stage := (stageWrite a v s).stage } := by
  unfold stageWrite; split <;> rfl

/-- What a bus write leaves alone (R83). -/
theorem busStore_frame (a : Nat) (v : Word) (s : State) : busStore a v s =
    { s with arg0 := (busStore a v s).arg0, arg1 := (busStore a v s).arg1, arg2 := (busStore a v s).arg2,
             stage := (busStore a v s).stage, outbuf := (busStore a v s).outbuf } := by
  unfold busStore
  split
  case h_4 =>
    split
    · rw [outbufWrite_frame]
    · rw [stageWrite_frame]
  all_goals rfl

/-! The error flags (R384, R385, R391). -/

/-- The error flags and ERRINFO are as before. -/
def ErrorsKept (s t : State) : Prop :=
  t.seqErr = s.seqErr ∧ t.cfgErr = s.cfgErr ∧ t.argErr = s.argErr ∧ t.cmdErr = s.cmdErr ∧ t.errinfo = s.errinfo

/-- The one thing that changes them: a refusal with a cause of the flag. -/
def RefusedOnce (s t : State) : Prop :=
  ∃ flag cause info, causeFlag cause = some flag ∧ t = takeRefusal flag cause info s

theorem errorsKept_refl (s : State) : ErrorsKept s s := ⟨rfl, rfl, rfl, rfl, rfl⟩

theorem errorsKept_of_renderWrites {s t : State} (h : renderWrites s t) : ErrorsKept s t := by
  unfold renderWrites at h
  rw [h]
  exact errorsKept_refl s

/-- A command changes the error flags by a refusal or not at all. -/
theorem CommandEffect.errors {s t : State} {c : Command} (h : CommandEffect s c t) :
    ErrorsKept s t ∨ RefusedOnce s t := by
  cases h with
  | refused c flag cause info h => exact .inr ⟨flag, cause, info, h, rfl⟩
  | unchanged | canplay | isactive | setparams | ctrl => exact .inl (errorsKept_refl s)
  | prepare => left; rw [prepareVoice_eq]; exact errorsKept_refl s
  | startnote => left; rw [startVoice_eq]; exact errorsKept_refl s
  | release => left; rw [releaseVoice_eq]; exact errorsKept_refl s
  | cut => left; rw [cutVoice_eq]; exact errorsKept_refl s
  | render count => exact .inl (errorsKept_of_renderWrites (render_renderWrites count s))

/-- A step changes the error flags by the reset, by a refusal, or not at all. -/
theorem StepEffect.errors {s t : State} (h : StepEffect s t) :
    (RunsReset s ∧ t = hwresetStep s.popRequest) ∨ ErrorsKept s t ∨ RefusedOnce s.popRequest t := by
  cases h with
  | reset h => exact .inl ⟨h, rfl⟩
  | idle | read => exact .inr (.inl (errorsKept_refl s))
  | write a v => right; left; rw [busStore_frame]; exact errorsKept_refl s
  | command _ he => exact .inr he.errors
  | badCommand cause info h => exact .inr (.inr ⟨.cmdErr, cause, info, h, rfl⟩)
  | oscillator i =>
    exact .inr (.inl (errorsKept_of_renderWrites (s := s.popRequest) (voiceFrame_renderWrites (oscStep_voiceFrame i _))))
  | lowPass i =>
    exact .inr (.inl (errorsKept_of_renderWrites (s := s.popRequest) (voiceFrame_renderWrites (lpfStep_voiceFrame i _))))
  | comb i =>
    exact .inr (.inl (errorsKept_of_renderWrites (s := s.popRequest) (voiceFrame_renderWrites (combStep_voiceFrame i _))))
  | transient h =>
    exact .inr (.inl (errorsKept_of_renderWrites (s := s.popRequest)
      (voiceFrame_renderWrites (seqFrame_voiceFrame h))))

/-- Settles O6: outside the reset the flags are as before, or one is set by a refusal, which loads ERRINFO only from
0. -/
theorem errorFlagsAreSticky : Obligations.ErrorFlagsAreSticky := by
  intro s t hreset hstep
  obtain ⟨h, -⟩ | ⟨hseq, hcfg, harg, hcmd, hinfo⟩ | ⟨flag, cause, info, -, rfl⟩ := (stepEffect_of_step hstep).errors
  · exact absurd h hreset
  · rw [hseq, hcfg, harg, hcmd, hinfo]
    exact ⟨id, id, id, id, fun _ => rfl⟩
  · have hr := takeRefusal_refused flag cause info s.popRequest
    unfold Refused at hr
    rw [hr]
    refine ⟨?_, ?_, ?_, ?_, fun h => if_neg h⟩ <;> exact fun h => Bool.or_eq_true_iff.mpr (.inl h)

/-- A legal cause is not 0, so a refusal's ERRINFO is not 0. -/
theorem append_cause_ne_zero {cause : BitVec 8} {flag : ErrFlag} (h : causeFlag cause = some flag) (info : BitVec 24) :
    info ++ cause ≠ 0 := by
  intro h0
  have hlow : cause = 0 := by
    apply BitVec.eq_of_getLsbD_eq
    intro i hi
    have low : (info ++ cause).getLsbD i = cause.getLsbD i := by rw [BitVec.getLsbD_append, if_pos hi]
    rw [← low, h0]
    rfl
  subst hlow
  cases h

theorem takeRefusal_errorsAgree {flag : ErrFlag} {cause : BitVec 8} (h : causeFlag cause = some flag)
    (info : BitVec 24) (s : State) : ErrorsAgree (takeRefusal flag cause info s) := by
  have hr := takeRefusal_refused flag cause info s
  unfold Refused at hr
  have hne : (if s.errinfo = 0 then info ++ cause else s.errinfo) ≠ 0 := by
    split
    · exact append_cause_ne_zero h info
    · assumption
  rw [hr]
  refine iff_of_false hne ?_
  cases flag <;> simp

/-- Settles O7: the reset clears ERRINFO and the flags, and a refusal sets both. -/
theorem errinfoAgreesWithFlagsEveryStep : Obligations.ErrinfoAgreesWithFlagsEveryStep := by
  intro s t hs hstep
  obtain ⟨-, rfl⟩ | ⟨hseq, hcfg, harg, hcmd, hinfo⟩ | ⟨flag, cause, info, hcause, rfl⟩ :=
    (stepEffect_of_step hstep).errors
  · exact iff_of_true rfl ⟨rfl, rfl, rfl, rfl⟩
  · unfold ErrorsAgree
    rw [hseq, hcfg, harg, hcmd, hinfo]
    exact hs
  · exact takeRefusal_errorsAgree hcause info _

/-! The sole writers (R25, R28, R29, R32, R40). -/

/-- The registers that only their own commands write are as before. -/
def RegistersKept (s t : State) : Prop :=
  t.act = s.act ∧ t.mw = s.mw ∧ t.fs = s.fs ∧ t.blockSize = s.blockSize ∧ t.prepared = s.prepared ∧
    t.noteHz = s.noteHz ∧ t.result = s.result

theorem registersKept_refl (s : State) : RegistersKept s s := ⟨rfl, rfl, rfl, rfl, rfl, rfl, rfl⟩

theorem registersKept_of_renderWrites {s t : State} (h : renderWrites s t) : RegistersKept s t := by
  unfold renderWrites at h
  rw [h]
  exact registersKept_refl s

theorem takeRefusal_registersKept (flag : ErrFlag) (cause : BitVec 8) (info : BitVec 24) (s : State) :
    RegistersKept s (takeRefusal flag cause info s) := by
  rw [takeRefusal_refusalFrame flag cause info s]
  exact registersKept_refl s

/-- A step that runs no command and no reset keeps these registers. -/
theorem StepEffect.registers {s t : State} (h : StepEffect s t) :
    (RunsReset s ∧ t = hwresetStep s.popRequest) ∨ RegistersKept s t ∨
      ∃ c, Runs s c ∧ CommandEffect s.popRequest c t := by
  cases h with
  | reset h => exact .inl ⟨h, rfl⟩
  | idle | read => exact .inr (.inl (registersKept_refl s))
  | write a v => right; left; rw [busStore_frame]; exact registersKept_refl s
  | command h he => exact .inr (.inr ⟨_, h, he⟩)
  | badCommand cause info => exact .inr (.inl (takeRefusal_registersKept .cmdErr cause info s.popRequest))
  | oscillator i =>
    exact .inr (.inl (registersKept_of_renderWrites (s := s.popRequest)
      (voiceFrame_renderWrites (oscStep_voiceFrame i _))))
  | lowPass i =>
    exact .inr (.inl (registersKept_of_renderWrites (s := s.popRequest)
      (voiceFrame_renderWrites (lpfStep_voiceFrame i _))))
  | comb i =>
    exact .inr (.inl (registersKept_of_renderWrites (s := s.popRequest)
      (voiceFrame_renderWrites (combStep_voiceFrame i _))))
  | transient h =>
    exact .inr (.inl (registersKept_of_renderWrites (s := s.popRequest)
      (voiceFrame_renderWrites (seqFrame_voiceFrame h))))

/-- What the sole writers of the registers are, as conditions on the command that ran. -/
def SoleWriters (s t : State) (runs : Command → Prop) : Prop :=
  (¬runs .setparams → t.act = s.act) ∧
  (¬runs .setparams → ¬runs (.ctrl 1) → t.mw = s.mw) ∧
  (¬runs .prepare → t.fs = s.fs ∧ t.blockSize = s.blockSize ∧ t.prepared = s.prepared) ∧
  ((∀ note, ¬runs (.startnote note)) → t.noteHz = s.noteHz) ∧
  ((∀ tag, ¬runs (.canplay tag)) → ¬runs .isactive → t.result = s.result)

theorem soleWriters_of_registersKept {s t : State} {runs : Command → Prop} (h : RegistersKept s t) :
    SoleWriters s t runs := by
  obtain ⟨hact, hmw, hfs, hsize, hprep, hnote, hresult⟩ := h
  exact ⟨fun _ => hact, fun _ _ => hmw, fun _ => ⟨hfs, hsize, hprep⟩, fun _ => hnote, fun _ _ => hresult⟩

/-- Each command writes only its own registers. -/
theorem CommandEffect.soleWriters {s t : State} {c : Command} {runs : Command → Prop} (h : CommandEffect s c t)
    (hc : runs c) : SoleWriters s t runs := by
  cases h with
  | unchanged => exact soleWriters_of_registersKept (registersKept_refl s)
  | refused c flag cause info => exact soleWriters_of_registersKept (takeRefusal_registersKept flag cause info s)
  | prepare =>
    rw [prepareVoice_eq]
    exact ⟨fun _ => rfl, fun _ _ => rfl, fun h => absurd hc h, fun _ => rfl, fun _ _ => rfl⟩
  | canplay tag => exact ⟨fun _ => rfl, fun _ _ => rfl, fun _ => ⟨rfl, rfl, rfl⟩, fun _ => rfl,
      fun h => absurd hc (h tag)⟩
  | isactive => exact ⟨fun _ => rfl, fun _ _ => rfl, fun _ => ⟨rfl, rfl, rfl⟩, fun _ => rfl, fun _ h => absurd hc h⟩
  | startnote note =>
    rw [startVoice_eq]
    exact ⟨fun _ => rfl, fun _ _ => rfl, fun _ => ⟨rfl, rfl, rfl⟩, fun h => absurd hc (h note), fun _ _ => rfl⟩
  | release => rw [releaseVoice_eq]; exact soleWriters_of_registersKept (registersKept_refl s)
  | cut => rw [cutVoice_eq]; exact soleWriters_of_registersKept (registersKept_refl s)
  | setparams =>
    exact ⟨fun h => absurd hc h, fun h => absurd hc h, fun _ => ⟨rfl, rfl, rfl⟩, fun _ => rfl, fun _ _ => rfl⟩
  | render count => exact soleWriters_of_registersKept (registersKept_of_renderWrites (render_renderWrites count s))
  | ctrl => exact ⟨fun _ => rfl, fun _ h => absurd hc h, fun _ => ⟨rfl, rfl, rfl⟩, fun _ => rfl, fun _ _ => rfl⟩

/-- Settles O49. -/
theorem onlyTheirCommandsWriteRegisters : Obligations.OnlyTheirCommandsWriteRegisters := by
  intro s t hreset hstep
  obtain ⟨h, -⟩ | h | ⟨c, hc, he⟩ := (stepEffect_of_step hstep).registers
  · exact absurd h hreset
  · exact soleWriters_of_registersKept (runs := Runs s) h
  · exact he.soleWriters (s := s.popRequest) (runs := Runs s) hc

/-! The voice state (R31, R300). -/

theorem completeStep_of_idle {s : State} (h : bothEnvIdle s = true) :
    completeStep s = { s with vstate := .idle, done := true } := if_pos h

theorem completeStep_of_not_idle {s : State} (h : bothEnvIdle s = false) : completeStep s = s :=
  if_neg (Bool.eq_false_iff.mp h)

theorem bothEnvIdle_iff (s : State) :
    bothEnvIdle s = true ↔ s.env[0].stage = .idle ∧ s.env[1].stage = .idle := by
  simp [bothEnvIdle, envActive]

/-- The voice has ended by COMPLETE: Idle and done, both envelopes idle. -/
def Completed (s : State) : Prop := s.vstate = .idle ∧ s.done = true ∧ bothEnvIdle s = true

theorem outAddStep_voice (s : State) :
    (outAddStep s).vstate = s.vstate ∧ (outAddStep s).done = s.done ∧ (outAddStep s).env = s.env := by
  refine foldl_keeps (fun t => t.vstate = s.vstate ∧ t.done = s.done ∧ t.env = s.env) (fun t c ht => ?_) _
    ⟨rfl, rfl, rfl⟩
  unfold outAddChannel
  simp only
  rw [outbufWrite_frame]
  exact ht

/-- A frame ends the voice or leaves VSTATE and DONE. -/
theorem renderFrame_voice (n : Nat) (s : State) :
    ((renderFrame n s).vstate = s.vstate ∧ (renderFrame n s).done = s.done ∧ bothEnvIdle (renderFrame n s) = false) ∨
      Completed (renderFrame n s) := by
  unfold renderFrame
  generalize hv : voiceSampleStep _ = v
  have hframe : v.vstate = s.vstate ∧ v.done = s.done := by
    rw [← hv, voiceSampleStep_voiceFrame]
    exact ⟨rfl, rfl⟩
  obtain ⟨hvs, hdone, -⟩ := outAddStep_voice v
  cases hidle : bothEnvIdle (outAddStep v) with
  | true =>
    rw [completeStep_of_idle hidle]
    exact .inr ⟨rfl, rfl, hidle⟩
  | false =>
    rw [completeStep_of_not_idle hidle]
    exact .inl ⟨hvs.trans hframe.1, hdone.trans hframe.2, hidle⟩

theorem renderFrames_zero (n : Nat) (s : State) : renderFrames 0 n s = s := rfl

theorem renderFrames_succ (count n : Nat) (s : State) :
    renderFrames (count + 1) n s = if voiceActive s then renderFrames count (n + 1) (renderFrame n s) else s := rfl

theorem renderFrames_of_idle (count n : Nat) {s : State} (h : s.vstate = .idle) : renderFrames count n s = s := by
  cases count with
  | zero => rfl
  | succ count => rw [renderFrames_succ, if_neg (by simp [voiceActive_iff, h])]

theorem renderFrames_of_sounding (count n : Nat) {s : State} (h : s.vstate ≠ .idle) :
    renderFrames (count + 1) n s = renderFrames count (n + 1) (renderFrame n s) := by
  rw [renderFrames_succ, if_pos ((voiceActive_iff s).mpr h)]

/-- The frames of a RENDER end the voice or leave VSTATE and DONE. -/
theorem renderFrames_voice (count n : Nat) (s : State) :
    ((renderFrames count n s).vstate = s.vstate ∧ (renderFrames count n s).done = s.done) ∨
      Completed (renderFrames count n s) := by
  induction count generalizing n s with
  | zero => exact .inl ⟨rfl, rfl⟩
  | succ count ih =>
    by_cases h : s.vstate = .idle
    · rw [renderFrames_of_idle _ _ h]; exact .inl ⟨rfl, rfl⟩
    · rw [renderFrames_of_sounding _ _ h]
      obtain ⟨hvs, hdone, -⟩ | hend := renderFrame_voice n s
      · rw [← hvs, ← hdone]
        exact ih (n + 1) _
      · rw [renderFrames_of_idle _ _ hend.1]
        exact .inr hend

/-- VSTATE changes only by these commands (R300). -/
theorem CommandEffect.vstate {s t : State} {c : Command} (h : CommandEffect s c t) (hne : t.vstate ≠ s.vstate) :
    (t.vstate = .active ∧ ∃ note, c = .startnote note) ∨
    (t.vstate = .releasing ∧ s.vstate = .active ∧ c = .stopnote true) ∨
    (t.vstate = .idle ∧ (c = .stopnote false ∨ c = .prepare ∨
      (c = .render ∧ t.done = true ∧ t.env[0].stage = .idle ∧ t.env[1].stage = .idle))) := by
  cases h with
  | unchanged | canplay | isactive | setparams | ctrl => exact absurd rfl hne
  | refused c flag cause info => rw [takeRefusal_refusalFrame] at hne; exact absurd rfl hne
  | startnote note => exact .inl ⟨rfl, note, rfl⟩
  | cut => exact .inr (.inr ⟨rfl, .inl rfl⟩)
  | prepare => exact .inr (.inr ⟨rfl, .inr (.inl rfl)⟩)
  | release hsound =>
    have hactive : s.vstate = .active := by
      cases hv : s.vstate with
      | active => rfl
      | idle => exact absurd hv hsound
      | releasing => exact absurd hv.symm hne
    exact .inr (.inl ⟨rfl, hactive, rfl⟩)
  | render count =>
    obtain ⟨hvs, -⟩ | ⟨hvs, hdone, hidle⟩ := renderFrames_voice count 0 s
    · exact absurd hvs hne
    · exact .inr (.inr ⟨hvs, .inr (.inr ⟨rfl, hdone, (bothEnvIdle_iff _).mp hidle⟩)⟩)

/-- A step without a command or reset keeps VSTATE and the envelopes. -/
theorem StepEffect.voice {s t : State} (h : StepEffect s t) :
    (RunsReset s ∧ t = hwresetStep s.popRequest) ∨ (t.vstate = s.vstate ∧ t.env = s.env) ∨
      ∃ c, Runs s c ∧ CommandEffect s.popRequest c t := by
  cases h with
  | reset h => exact .inl ⟨h, rfl⟩
  | idle | read => exact .inr (.inl ⟨rfl, rfl⟩)
  | oscillator i => right; left; rw [oscStep_frame]; exact ⟨rfl, rfl⟩
  | lowPass i => right; left; rw [lpfStep_frame]; exact ⟨rfl, rfl⟩
  | comb i => right; left; rw [combStep_frame]; exact ⟨rfl, rfl⟩
  | write a v => right; left; rw [busStore_frame]; exact ⟨rfl, rfl⟩
  | command h he => exact .inr (.inr ⟨_, h, he⟩)
  | badCommand cause info => right; left; rw [takeRefusal_refusalFrame]; exact ⟨rfl, rfl⟩
  | transient h => unfold seqFrame at h; right; left; rw [h]; exact ⟨rfl, rfl⟩

/-- Settles O50: the commands' transitions, and the reset's. -/
theorem voiceStateTransitions : Obligations.VoiceStateTransitions := by
  intro s t hstep hne
  obtain ⟨hreset, rfl⟩ | ⟨h, -⟩ | ⟨c, hc, he⟩ := (stepEffect_of_step hstep).voice
  · exact .inr (.inr ⟨rfl, .inr (.inr (.inl hreset))⟩)
  · exact absurd h hne
  · obtain ⟨hv, note, rfl⟩ | ⟨hv, hs, rfl⟩ | ⟨hv, rfl | rfl | ⟨rfl, hdone, he0, he1⟩⟩ := he.vstate hne
    · exact .inl ⟨hv, note, hc⟩
    · exact .inr (.inl ⟨hv, hs, hc⟩)
    · exact .inr (.inr ⟨hv, .inl hc⟩)
    · exact .inr (.inr ⟨hv, .inr (.inl hc)⟩)
    · exact .inr (.inr ⟨hv, .inr (.inr (.inr ⟨hc, hdone, he0, he1⟩))⟩)

end Sys2Proof
end

section
/-! PROOFS. The encoder against the decoder (R111 to R124): each command has one word, each selector word one
instruction. Settles O1 and O2. -/

namespace Sys2Proof

open Sys2Proof.Machine Sys2Proof.Claims

/-- Settles O1. -/
theorem sampleWordsDecode : Obligations.SampleWordsDecode :=
  ⟨rfl, rfl, rfl, rfl, rfl, rfl, rfl, rfl, rfl, rfl⟩

/-! The word of a command (R111, R113, R116). -/

/-- The immediate that carries a command's operand. -/
def Command.imm (c : Command) : BitVec 24 :=
  match c with
  | .canplay tag => tag
  | .startnote note => note.zeroExtend 24
  | .stopnote tail => (BitVec.ofBool tail).zeroExtend 24
  | .ctrl cc => cc.zeroExtend 24
  | _ => 0

/-- The word of a command: its row is its opcode. -/
def Command.word (c : Command) : Word := commandWord (BitVec.ofNat 8 c.row.val) c.imm

theorem encode_toInstr (c : Command) : encode c.toInstr = some (.write cmdAddr c.word) := by
  cases c <;> rfl

theorem toNat_opcField (w : Word) : (opcField w).toNat = w.toNat / 2 ^ 24 := by
  have := w.isLt
  simp only [opcField, BitVec.extractLsb'_toNat, Nat.shiftRight_eq_div_pow]
  omega

theorem toNat_immField (w : Word) : (immField w).toNat = w.toNat % 2 ^ 24 := by
  simp [immField, BitVec.extractLsb'_toNat]

theorem toNat_commandWord (opc : BitVec 8) (imm : BitVec 24) :
    (commandWord opc imm).toNat = opc.toNat * 2 ^ 24 + imm.toNat := by
  rw [commandWord, BitVec.toNat_append, ← Nat.shiftLeft_add_eq_or_of_lt imm.isLt, Nat.shiftLeft_eq]

/-- A word is a command word exactly when its two fields are. -/
theorem eq_commandWord_iff (w : Word) (opc : BitVec 8) (imm : BitVec 24) :
    w = commandWord opc imm ↔ opcField w = opc ∧ immField w = imm := by
  simp only [← BitVec.toNat_inj, toNat_commandWord, toNat_opcField, toNat_immField]
  have := imm.isLt
  omega

theorem reservedField_eq_zero_iff (k : Fin 9) (w : Word) :
    reservedField k w = 0 ↔ w.toNat / 2 ^ operandBits k % 2 ^ (24 - operandBits k) = 0 := by
  rw [← BitVec.toNat_inj]
  simp [reservedField, BitVec.extractLsb'_toNat, Nat.shiftRight_eq_div_pow]

/-- The must-be-0 bits of row k and the operand below them make up IMM (R113). -/
theorem immField_eq_iff (w : Word) (c : Command) :
    immField w = c.imm ↔ reservedField c.row w = 0 ∧ rowCommand c.row w = c := by
  have himm := toNat_immField w
  rw [reservedField_eq_zero_iff]
  cases c with
  | nop | prepare | setparams | render | isactive =>
    simp [← BitVec.toNat_inj, himm, Command.imm, Command.row, rowCommand, operandBits]
  | canplay tag =>
    simp [Command.imm, Command.row, rowCommand, operandBits, Nat.mod_one]
  | startnote x | ctrl x =>
    have operand : (imm7 w).toNat = w.toNat % 2 ^ 7 := by simp [imm7, BitVec.extractLsb'_toNat]
    have wide : (x.zeroExtend 24).toNat = x.toNat := by
      rw [BitVec.zeroExtend, BitVec.toNat_setWidth]
      exact Nat.mod_eq_of_lt (by omega)
    simp only [Command.imm, Command.row, rowCommand, operandBits, Command.startnote.injEq, Command.ctrl.injEq,
      ← BitVec.toNat_inj, wide, operand, himm]
    omega
  | stopnote tail =>
    have operand : immBit0 w = decide (w.toNat % 2 = 1) := by
      simp [immBit0, BitVec.getLsbD, Nat.testBit_zero]
    simp only [Command.imm, Command.row, rowCommand, operandBits, Command.stopnote.injEq, operand,
      ← BitVec.toNat_inj, himm]
    cases tail <;> simp <;> omega

/-- A word decodes to a command exactly when it is that command's word. -/
theorem decodeCommand_eq_ok_iff_word {w : Word} {c : Command} : decodeCommand w = .ok c ↔ w = c.word := by
  have hrow : (BitVec.ofNat 8 c.row.val).toNat = c.row.val := by
    rw [BitVec.toNat_ofNat]
    exact Nat.mod_eq_of_lt (by omega)
  rw [decodeCommand_eq_ok_iff_row, matchesRow_iff, Command.word, eq_commandWord_iff, immField_eq_iff, and_assoc,
    ← BitVec.toNat_inj (x := opcField w), hrow]

/-! The selector words (R120 to R124). -/

theorem eq_ofNat_of_toNat_eq {w : Word} {n : Nat} (h : w.toNat = n) : w = BitVec.ofNat 32 n := by
  rw [← h, BitVec.ofNat_toNat, BitVec.setWidth_eq]

theorem encode_destInstr (d : Dest) (site : DestSite) :
    encode (destInstr d site) = toDest site (BitVec.ofNat 32 d.val) := by
  fin_cases d <;> rfl

/-- The instruction a selector word decodes to is encoded as that word. -/
theorem encode_of_decodeSelector {site : Site} {w : Word} {i : Instr} (h : decodeSelector site w = .ok i) :
    encode i = some (.select site w) := by
  cases site with
  | dest site =>
    simp only [decodeSelector] at h
    split at h <;> cases h
    rw [encode_destInstr, BitVec.ofNat_toNat, BitVec.setWidth_eq]
    rfl
  | mode k =>
    simp only [decodeSelector] at h
    split at h <;> cases h
    case h_4 => rfl
    all_goals
      rename_i hw
      rw [eq_ofNat_of_toNat_eq hw]
      rfl
  | wave k | src k | envsrc k =>
    simp only [decodeSelector] at h
    split at h <;> cases h
    all_goals
      rename_i hw
      rw [eq_ofNat_of_toNat_eq hw]
      rfl

/-! Both directions. -/

theorem encode_of_decode {r : Request} {i : Instr} (h : decode r = .ok i) : encode i = some r := by
  cases r with
  | reset | read => cases h; rfl
  | select => exact encode_of_decodeSelector h
  | write a v =>
    by_cases ha : a = cmdAddr
    · subst ha
      rw [decode_write_cmd_eq_ok rfl] at h
      cases hdec : decodeCommand v with
      | error e => rw [hdec] at h; cases h
      | ok c =>
        rw [hdec] at h
        cases h
        rw [encode_toInstr, ← decodeCommand_eq_ok_iff_word.mp hdec]
    · rw [decode_write_of_ne ha] at h
      cases h
      exact if_neg ha

theorem decode_command_word (c : Command) : decode (.write cmdAddr c.word) = .ok c.toInstr := by
  rw [decode_write_cmd_eq_ok rfl, decodeCommand_eq_ok_iff_word.mpr rfl]
  rfl

theorem decode_pass {i : OpIdx} {w : Word} (h : 3 ≤ w.toNat) : decode (.select (.mode i) w) = .ok (.opPass i w) := by
  simp only [decode, decodeSelector]
  split
  case h_4 => rfl
  all_goals omega

theorem decode_of_encode {i : Instr} {r : Request} (hwf : i.wellFormed = true) (h : encode i = some r) :
    decode r = .ok i := by
  cases i
  case nop => cases h; exact decode_command_word .nop
  case prepare => cases h; exact decode_command_word .prepare
  case canplay tag => cases h; exact decode_command_word (.canplay tag)
  case startnote note => cases h; exact decode_command_word (.startnote note)
  case stopnote tail => cases h; exact decode_command_word (.stopnote tail)
  case setparams => cases h; exact decode_command_word .setparams
  case render => cases h; exact decode_command_word .render
  case isactive => cases h; exact decode_command_word .isactive
  case ctrl cc => cases h; exact decode_command_word (.ctrl cc)
  case opPass i w => cases h; exact decode_pass (of_decide_eq_true hwf)
  case busWrite a v =>
    simp only [encode, Option.ite_none_left_eq_some, Option.some.injEq] at h
    obtain ⟨ha, rfl⟩ := h
    exact decode_write_of_ne ha
  all_goals cases h
  all_goals rfl

/-- Settles O2: a request is decoded to the instruction it encodes, whether a bus access, a command word or a selector
word; the micro-operations of the sequencer have no request on either side. -/
theorem decodeInvertsEncode : Obligations.DecodeInvertsEncode :=
  fun _ _ hwf => ⟨decode_of_encode hwf, encode_of_decode⟩

end Sys2Proof
end

section
/-! PROOFS. What each part of a sample changes, register file by register file; and the invariants of memory and of the
phases. Settles O55, O56, O57, O59. -/

namespace Sys2Proof

open Sys2Proof.Machine Sys2Proof.Claims

/-! The parts of a sample (R310). -/

/-- Steps 1 to 3 change the LFO phases, the envelopes and transient values. -/
abbrev ControlFrame (s t : State) : Prop := t = { s with lph := t.lph, env := t.env, seq := t.seq, draws := t.draws }

theorem ControlFrame.trans {s t u : State} (h : ControlFrame s t) (k : ControlFrame t u) : ControlFrame s u := by
  unfold ControlFrame at *
  rw [k, h]

theorem ControlFrame.of_seqFrame {s t : State} (h : seqFrame s t) : ControlFrame s t := by
  unfold seqFrame at h
  rw [ControlFrame, h]

theorem ControlFrame.op {s t : State} (h : ControlFrame s t) : t.op = s.op := by rw [h]

theorem ControlFrame.opout {s t : State} (h : ControlFrame s t) : t.opout = s.opout := by rw [h]

theorem ControlFrame.outbuf {s t : State} (h : ControlFrame s t) : t.outbuf = s.outbuf := by rw [h]

theorem lfoFinish_controlFrame (k : LfoIdx) (s : State) : ControlFrame s (lfoFinish k s) := rfl

theorem lfoStep_controlFrame (k : LfoIdx) (s : State) : ControlFrame s (lfoStep k s) :=
  (ControlFrame.of_seqFrame (waveStep_seqFrame k s)).trans (lfoFinish_controlFrame k _)

theorem envStep_controlFrame (e : EnvIdx) (s : State) : ControlFrame s (envStep e s) := by
  unfold envStep
  split <;> rfl

theorem voiceControl_controlFrame (s : State) : ControlFrame s (voiceControl s) :=
  ((((lfoStep_controlFrame 0 s).trans (lfoStep_controlFrame 1 _)).trans
    (ControlFrame.of_seqFrame (routeStep_seqFrame _))).trans (envStep_controlFrame 0 _)).trans (envStep_controlFrame 1 _)

/-- The operators' turns change the operators, OPOUT and transient values. -/
abbrev TurnFrame (s t : State) : Prop := t = { s with op := t.op, opout := t.opout, seq := t.seq, draws := t.draws }

theorem TurnFrame.trans {s t u : State} (h : TurnFrame s t) (k : TurnFrame t u) : TurnFrame s u := by
  unfold TurnFrame at *
  rw [k, h]

theorem TurnFrame.of_seqFrame {s t : State} (h : seqFrame s t) : TurnFrame s t := by
  unfold seqFrame at h
  rw [TurnFrame, h]

theorem TurnFrame.lph {s t : State} (h : TurnFrame s t) : t.lph = s.lph := by rw [h]

theorem TurnFrame.env {s t : State} (h : TurnFrame s t) : t.env = s.env := by rw [h]

theorem TurnFrame.outbuf {s t : State} (h : TurnFrame s t) : t.outbuf = s.outbuf := by rw [h]

theorem seqFrame_op {s t : State} (h : seqFrame s t) : t.op = s.op := by rw [h]

theorem seqFrame_lph {s t : State} (h : seqFrame s t) : t.lph = s.lph := by rw [h]

theorem seqFrame_env {s t : State} (h : seqFrame s t) : t.env = s.env := by rw [h]

theorem processStep_turnFrame (i : OpIdx) (s : State) : TurnFrame s (processStep i s) := by
  unfold processStep TurnFrame
  split
  · rw [oscStep_frame]
  · rw [lpfStep_frame]
  · rw [combStep_frame]
  · rfl

/-- What stands before the mode body in an operator's turn. -/
def operatorOperands (i : OpIdx) (s : State) : State :=
  modulateStep i (envsrcStep i (pmStep i (setSeq { s.seq with i := i } s)))

theorem operatorOperands_seqFrame (i : OpIdx) (s : State) : seqFrame s (operatorOperands i s) :=
  seqFrame_trans (seqFrame_trans (seqFrame_trans (setSeq_seqFrame _ s) (pmStep_seqFrame i _)) (envsrcStep_seqFrame i _))
    (modulateStep_seqFrame i _)

/-- What stands after it: OPOUT and both paths. -/
def operatorResult (i : OpIdx) (s : State) : State := serialStep (parallelStep i (storeOut i s))

theorem operatorResult_turnFrame (i : OpIdx) (s : State) : TurnFrame s (operatorResult i s) := rfl

theorem operatorResult_op (i : OpIdx) (s : State) : (operatorResult i s).op = s.op := by
  rw [operatorResult, seqFrame_op (serialStep_seqFrame _), seqFrame_op (parallelStep_seqFrame i _), storeOut, setOpout_op]

theorem voiceOperator_eq (i : OpIdx) (s : State) :
    voiceOperator i s = operatorResult i (processStep i (operatorOperands i s)) := rfl

theorem voiceOperator_turnFrame (i : OpIdx) (s : State) : TurnFrame s (voiceOperator i s) :=
  ((TurnFrame.of_seqFrame (operatorOperands_seqFrame i s)).trans (processStep_turnFrame i _)).trans
    (operatorResult_turnFrame i _)

theorem voiceOperator_op (i : OpIdx) (s : State) :
    (voiceOperator i s).op = (processStep i (operatorOperands i s)).op := by
  rw [voiceOperator_eq, operatorResult_op]

/-- The six operators' turns. -/
def voiceOperators (s : State) : State := allOps.foldl (fun t i => voiceOperator i t) s

theorem voiceOperators_turnFrame (s : State) : TurnFrame s (voiceOperators s) :=
  foldl_keeps (TurnFrame s) (fun t i ht => ht.trans (voiceOperator_turnFrame i t)) allOps rfl

theorem voiceSampleStep_eq (s : State) :
    voiceSampleStep s = headroomStep (voiceOperators (clearPaths (voiceControl s))) := rfl

/-- In a sample the operators change only in their turns. -/
theorem voiceSampleStep_op (s : State) :
    (voiceSampleStep s).op = (voiceOperators (clearPaths (voiceControl s))).op := by
  rw [voiceSampleStep_eq, seqFrame_op (headroomStep_seqFrame _)]

/-- In a sample the envelopes change only in steps 1 to 3. -/
theorem voiceSampleStep_env (s : State) : (voiceSampleStep s).env = (voiceControl s).env := by
  rw [voiceSampleStep_eq, seqFrame_env (headroomStep_seqFrame _), (voiceOperators_turnFrame _).env,
    seqFrame_env (clearPaths_seqFrame _)]

/-- OUT.ADD changes OUTBUF. -/
theorem outAddStep_frame (s : State) : outAddStep s =
    { s with outbuf := (outAddStep s).outbuf, draws := (outAddStep s).draws } :=
  foldl_keeps (fun t => t = { s with outbuf := t.outbuf, draws := t.draws })
    (fun t c ht => by
      unfold outAddChannel
      simp only
      rw [outbufWrite_frame, ht]
      rfl) _ rfl

/-- COMPLETE changes VSTATE and DONE. -/
theorem completeStep_frame (s : State) : completeStep s =
    { s with vstate := (completeStep s).vstate, done := (completeStep s).done } := by
  unfold completeStep
  split <;> rfl

/-- The state of frame n with its sample index latched. -/
def frameStart (n : Nat) (s : State) : State :=
  setSeq { s.seq with n := BitVec.ofNat Config.params.blockBits n } s

theorem renderFrame_eq (n : Nat) (s : State) :
    renderFrame n s = completeStep (outAddStep (voiceSampleStep (frameStart n s))) := rfl

/-- A property that does not rest on what a frame writes at its end, OUTBUF apart, is kept by a frame if VOICE.SAMPLE
keeps it. -/
theorem renderFrame_registers (n : Nat) (s : State) :
    (renderFrame n s).op = (voiceSampleStep (frameStart n s)).op ∧
    (renderFrame n s).lph = (voiceSampleStep (frameStart n s)).lph ∧
    (renderFrame n s).env = (voiceSampleStep (frameStart n s)).env ∧
    (renderFrame n s).opout = (voiceSampleStep (frameStart n s)).opout ∧
    (renderFrame n s).outbuf = (outAddStep (voiceSampleStep (frameStart n s))).outbuf := by
  rw [renderFrame_eq, completeStep_frame]
  generalize voiceSampleStep (frameStart n s) = v
  rw [outAddStep_frame]
  exact ⟨rfl, rfl, rfl, rfl, rfl⟩

/-- A property of states that a frame of a sounding voice keeps holds after RENDER's frames. -/
theorem renderFrames_keeps (P : State → Prop) (h : ∀ n t, t.vstate ≠ .idle → P t → P (renderFrame n t)) (count n : Nat)
    {s : State} (hs : P s) : P (renderFrames count n s) := by
  induction count generalizing n s with
  | zero => exact hs
  | succ count ih =>
    by_cases hidle : s.vstate = .idle
    · rwa [renderFrames_of_idle _ _ hidle]
    · rw [renderFrames_of_sounding _ _ hidle]
      exact ih (n + 1) (h n s hidle hs)

/-! Memory in canonical form (log 12). -/

theorem memoryWf_congr {s t : State} (hout : t.outbuf = s.outbuf) (hop : t.op = s.op) : memoryWf t = memoryWf s := by
  rw [memoryWf, memoryWf, hout, hop]

theorem memoryWf_of_zero_op {t : State} (hout : outbufWf t.outbuf = true) (hop : t.op = Vector.replicate 6 Operator.zero) :
    memoryWf t = true := by
  rw [memoryWf_iff]
  refine ⟨hout, fun i => ?_⟩
  rw [hop, getElem_replicate_fin]
  rfl

theorem oscStep_memoryWf (i : OpIdx) {s : State} (h : memoryWf s = true) : memoryWf (oscStep i s) = true :=
  seqFrame_memoryWf (s := setOp i _ s) rfl (setOp_memoryWf i _ (((memoryWf_iff s).mp h).2 i) h)

theorem lpfStep_memoryWf (i : OpIdx) {s : State} (h : memoryWf s = true) : memoryWf (lpfStep i s) = true :=
  seqFrame_memoryWf (s := setOp i _ s) rfl (setOp_memoryWf i _ (((memoryWf_iff s).mp h).2 i) h)

/-- OP.COMB's memory is that of the DWrite it makes. -/
theorem combStep_memoryWf (i : OpIdx) {s : State} (h : memoryWf s = true) : memoryWf (combStep i s) = true := by
  obtain ⟨hout, hwritten⟩ := (memoryWf_iff _).mp (delayWrite_memoryWf i s.op[i].w (combStored i s) h)
  refine (memoryWf_iff _).mpr ⟨?outbuf, fun j => ?delay⟩
  case outbuf => rw [combStep_frame]; exact hout
  case delay =>
    have hj := hwritten j
    rw [delayWrite_eq, setOp_op] at hj
    rw [combStep_op]
    split at hj
    next hij => rw [if_pos hij]; exact hj
    next hij => rw [if_neg hij]; exact hj

theorem voiceOperator_memoryWf (i : OpIdx) {s : State} (h : memoryWf s = true) : memoryWf (voiceOperator i s) = true := by
  have hp := processStep_memoryWf i (seqFrame_memoryWf (operatorOperands_seqFrame i s) h)
  rw [voiceOperator_eq]
  rwa [memoryWf_congr (operatorResult_turnFrame i _).outbuf (operatorResult_op i _)]

theorem voiceSampleStep_memoryWf {s : State} (h : memoryWf s = true) : memoryWf (voiceSampleStep s) = true := by
  have hcontrol : memoryWf (voiceControl s) = true := by
    rwa [memoryWf_congr (voiceControl_controlFrame s).outbuf (voiceControl_controlFrame s).op]
  have hturns : memoryWf (voiceOperators (clearPaths (voiceControl s))) = true :=
    foldl_keeps (fun t => memoryWf t = true) (fun t i => voiceOperator_memoryWf i) allOps
      (seqFrame_memoryWf (clearPaths_seqFrame _) hcontrol)
  exact seqFrame_memoryWf (headroomStep_seqFrame _) hturns

theorem outAddChannel_memoryWf (c : Nat) {s : State} (h : memoryWf s = true) : memoryWf (outAddChannel c s) = true := by
  rw [outAddChannel, memoryWf_congr (drew_outbuf 1 _) (drew_op 1 _)]
  exact outbufWrite_memoryWf _ _ h

theorem outAddStep_memoryWf {s : State} (h : memoryWf s = true) : memoryWf (outAddStep s) = true :=
  foldl_keeps (fun t => memoryWf t = true) (fun _ c => outAddChannel_memoryWf c) _ h

theorem completeStep_memoryWf {s : State} (h : memoryWf s = true) : memoryWf (completeStep s) = true := by
  rw [completeStep_frame]
  exact h

theorem renderFrame_memoryWf (n : Nat) {s : State} (h : memoryWf s = true) : memoryWf (renderFrame n s) = true :=
  completeStep_memoryWf (outAddStep_memoryWf (voiceSampleStep_memoryWf (seqFrame_memoryWf (setSeq_seqFrame _ s) h)))

theorem busStore_memoryWf (a : Nat) (v : Word) {s : State} (h : memoryWf s = true) : memoryWf (busStore a v s) = true := by
  unfold busStore
  split
  case h_4 =>
    split
    · exact outbufWrite_memoryWf a v h
    · rw [stageWrite_frame]; exact h
  all_goals exact h

theorem CommandEffect.keeps_memoryWf {s t : State} {c : Command} (he : CommandEffect s c t) (h : memoryWf s = true) :
    memoryWf t = true := by
  cases he with
  | unchanged | canplay | isactive | setparams | ctrl => exact h
  | refused c flag cause info => rw [takeRefusal_refusalFrame]; exact h
  | prepare => rw [prepareVoice_eq]; exact memoryWf_of_zero_op ((memoryWf_iff s).mp h).1 rfl
  | startnote note => rw [startVoice_eq]; exact memoryWf_of_zero_op ((memoryWf_iff s).mp h).1 rfl
  | release => rw [releaseVoice_eq]; exact h
  | cut => rw [cutVoice_eq]; exact h
  | render count =>
    exact renderFrames_keeps (fun t => memoryWf t = true) (fun n t _ => renderFrame_memoryWf n) count 0 h

/-- Settles O56: the only writes of memory are those of OUTBUF words and of delay words, and each keeps the form. -/
theorem everyStepKeepsMemoryCanonical : Obligations.EveryStepKeepsMemoryCanonical := by
  intro s t h hstep
  have hp : memoryWf s.popRequest = true := h
  cases stepEffect_of_step hstep with
  | idle | read => exact h
  | reset => exact memoryWf_reset
  | write a v => exact busStore_memoryWf a v hp
  | command _ he => exact he.keeps_memoryWf hp
  | badCommand cause info => rw [takeRefusal_refusalFrame]; exact hp
  | oscillator i => exact oscStep_memoryWf i hp
  | lowPass i => exact lpfStep_memoryWf i hp
  | comb i => exact combStep_memoryWf i hp
  | transient hframe => exact seqFrame_memoryWf hframe hp

/-! The phases (R34, R38). -/

theorem inPhase_zero : inPhase fZero := by decide

theorem phasesOk_congr {s t : State} (hop : t.op = s.op) (hlph : t.lph = s.lph) : phasesOk t ↔ phasesOk s := by
  rw [phasesOk, phasesOk, hop, hlph]

theorem phasesOk_of_seqFrame {s t : State} (h : seqFrame s t) : phasesOk t ↔ phasesOk s :=
  phasesOk_congr (seqFrame_op h) (seqFrame_lph h)

/-- Both users of the phase advance end in wrap (R204, R283). -/
theorem advancePhase_inPhase (nan : Nat → F32) (ph hz fs : F32) : inPhase (advancePhase nan ph hz fs) :=
  wrap_inPhase _ _

theorem setOp_phasesOk {i : OpIdx} {o : Operator} {s : State} (ho : inPhase o.ph) (h : phasesOk s) :
    phasesOk (setOp i o s) := by
  refine ⟨fun j => ?_, h.2⟩
  rw [setOp_op]
  split
  · exact ho
  · exact h.1 j

theorem oscStep_phasesOk (i : OpIdx) {s : State} (h : phasesOk s) : phasesOk (oscStep i s) :=
  setOp_phasesOk (s := s) (advancePhase_inPhase ..) h

theorem lpfStep_phasesOk (i : OpIdx) {s : State} (h : phasesOk s) : phasesOk (lpfStep i s) :=
  setOp_phasesOk (s := s) (h.1 i) h

theorem combStep_phasesOk (i : OpIdx) {s : State} (h : phasesOk s) : phasesOk (combStep i s) := by
  refine ⟨fun j => ?_, fun k => ?_⟩
  · rw [combStep_op]
    split
    next => exact h.1 i
    next => exact h.1 j
  · rw [combStep_frame]
    exact h.2 k

theorem processStep_phasesOk (i : OpIdx) {s : State} (h : phasesOk s) : phasesOk (processStep i s) := by
  unfold processStep
  split
  · exact oscStep_phasesOk i h
  · exact lpfStep_phasesOk i h
  · exact combStep_phasesOk i h
  · exact h

theorem voiceOperator_phasesOk (i : OpIdx) {s : State} (h : phasesOk s) : phasesOk (voiceOperator i s) := by
  have hp := processStep_phasesOk i ((phasesOk_of_seqFrame (operatorOperands_seqFrame i s)).mpr h)
  rw [voiceOperator_eq]
  exact (phasesOk_congr (operatorResult_op i _) (operatorResult_turnFrame i _).lph).mpr hp

theorem lfoFinish_lph (k : LfoIdx) (s : State) : (lfoFinish k s).lph =
    (setLph k (advancePhase (s.nanFrom 1) s.lph[k] s.act.lfo[k].freq s.fs) s).lph := rfl

theorem lfoFinish_phasesOk (k : LfoIdx) {s : State} (h : phasesOk s) : phasesOk (lfoFinish k s) := by
  refine ⟨fun i => ?_, fun l => ?_⟩
  · rw [(lfoFinish_controlFrame k s).op]; exact h.1 i
  · rw [lfoFinish_lph, setLph_lph]
    split
    · exact advancePhase_inPhase ..
    · exact h.2 l

theorem envStep_lph (e : EnvIdx) (s : State) : (envStep e s).lph = s.lph := by
  unfold envStep
  split <;> rfl

theorem voiceControl_phasesOk {s : State} (h : phasesOk s) : phasesOk (voiceControl s) := by
  have hlfo : ∀ k {t}, phasesOk t → phasesOk (lfoStep k t) := fun k t ht =>
    lfoFinish_phasesOk k ((phasesOk_of_seqFrame (waveStep_seqFrame k t)).mpr ht)
  have henv : ∀ e {t}, phasesOk t → phasesOk (envStep e t) := fun e t ht =>
    (phasesOk_congr (envStep_controlFrame e t).op (envStep_lph e t)).mpr ht
  exact henv 1 (henv 0 ((phasesOk_of_seqFrame (routeStep_seqFrame _)).mpr (hlfo 1 (hlfo 0 h))))

theorem voiceSampleStep_phasesOk {s : State} (h : phasesOk s) : phasesOk (voiceSampleStep s) := by
  have hcontrol := (phasesOk_of_seqFrame (clearPaths_seqFrame _)).mpr (voiceControl_phasesOk h)
  have hturns : phasesOk (voiceOperators (clearPaths (voiceControl s))) :=
    foldl_keeps phasesOk (fun t i => voiceOperator_phasesOk i) allOps hcontrol
  exact (phasesOk_of_seqFrame (headroomStep_seqFrame _)).mpr hturns

theorem renderFrame_phasesOk (n : Nat) {s : State} (h : phasesOk s) : phasesOk (renderFrame n s) := by
  obtain ⟨hop, hlph, -⟩ := renderFrame_registers n s
  have hstart : phasesOk (frameStart n s) := (phasesOk_of_seqFrame (setSeq_seqFrame _ s)).mpr h
  exact (phasesOk_congr hop hlph).mpr (voiceSampleStep_phasesOk hstart)

theorem CommandEffect.keeps_phasesOk {s t : State} {c : Command} (he : CommandEffect s c t) (h : phasesOk s) :
    phasesOk t := by
  cases he with
  | unchanged | canplay | isactive | setparams | ctrl => exact h
  | refused c flag cause info => rw [takeRefusal_refusalFrame]; exact h
  | release => rw [releaseVoice_eq]; exact h
  | cut => rw [cutVoice_eq]; exact h
  | prepare =>
    rw [prepareVoice_eq]
    refine ⟨fun i => ?_, fun k => ?_⟩
    · rw [getElem_replicate_fin]; exact inPhase_zero
    · rw [getElem_replicate_fin]; exact inPhase_zero
  | startnote note =>
    rw [startVoice_eq]
    refine ⟨fun i => ?_, fun k => ?_⟩
    · rw [getElem_replicate_fin]; exact inPhase_zero
    · rw [getElem_ofFn_fin, syncedPhase]
      split
      · exact inPhase_zero
      · exact h.2 k
  | render count => exact renderFrames_keeps phasesOk (fun n t _ => renderFrame_phasesOk n) count 0 h

theorem phasesOk_reset : phasesOk State.reset := by decide

/-- Settles O57: a phase changes to +0.0 or to a wrapped value only. -/
theorem everyStepKeepsPhasesInRange : Obligations.EveryStepKeepsPhasesInRange := by
  intro s t h hstep
  have hp : phasesOk s.popRequest := h
  cases stepEffect_of_step hstep with
  | idle | read => exact h
  | reset => exact phasesOk_reset
  | write a v => rw [busStore_frame]; exact h
  | command _ he => exact he.keeps_phasesOk hp
  | badCommand cause info => rw [takeRefusal_refusalFrame]; exact hp
  | oscillator i => exact oscStep_phasesOk i hp
  | lowPass i => exact lpfStep_phasesOk i hp
  | comb i => exact combStep_phasesOk i hp
  | transient hframe => exact (phasesOk_of_seqFrame hframe).mpr hp

/-! The voice and its envelopes (R301). -/

theorem voiceOk_congr {s t : State} (hv : t.vstate = s.vstate) (he : t.env = s.env) : voiceOk t ↔ voiceOk s := by
  unfold voiceOk bothEnvIdle envActive
  rw [hv, he]

theorem bothEnvIdle_of_stage {s : State} {st : EStage} (h : ∀ e : EnvIdx, s.env[e].stage = st) :
    bothEnvIdle s = true ↔ st = .idle := by
  have h0 := h 0
  have h1 := h 1
  rw [bothEnvIdle_iff]
  exact ⟨fun h => h0.symm.trans h.1, fun h => ⟨h0.trans h, h1.trans h⟩⟩

/-- A frame of a sounding voice leaves the voice Idle exactly when COMPLETE has found both envelopes idle. -/
theorem renderFrame_voiceOk (n : Nat) {s : State} (h : s.vstate ≠ .idle) : voiceOk (renderFrame n s) := by
  obtain ⟨hvs, -, hidle⟩ | ⟨hvs, -, hidle⟩ := renderFrame_voice n s
  · refine iff_of_false ?_ (Bool.eq_false_iff.mp hidle)
    rw [hvs]
    exact h
  · exact iff_of_true hvs hidle

theorem CommandEffect.keeps_voiceOk {s t : State} {c : Command} (he : CommandEffect s c t) (h : voiceOk s) :
    voiceOk t := by
  cases he with
  | unchanged | canplay | isactive | setparams | ctrl => exact h
  | refused c flag cause info => rw [takeRefusal_refusalFrame]; exact h
  | prepare =>
    rw [prepareVoice_eq]
    exact iff_of_true rfl ((bothEnvIdle_of_stage (st := .idle) fun e => by rw [getElem_ofFn_fin]; rfl).mpr rfl)
  | cut =>
    rw [cutVoice_eq]
    exact iff_of_true rfl ((bothEnvIdle_of_stage (st := .idle) fun e => by rw [getElem_ofFn_fin]; rfl).mpr rfl)
  | startnote note =>
    rw [startVoice_eq]
    exact iff_of_false (by simp)
      (by rw [bothEnvIdle_of_stage (st := .attack) fun e => by rw [getElem_ofFn_fin]; rfl]; simp)
  | release =>
    rw [releaseVoice_eq]
    exact iff_of_false (by simp)
      (by rw [bothEnvIdle_of_stage (st := .release) fun e => by rw [getElem_ofFn_fin]; rfl]; simp)
  | render count => exact renderFrames_keeps voiceOk (fun n t hv _ => renderFrame_voiceOk n hv) count 0 h

theorem voiceOk_reset : voiceOk State.reset := by decide

/-- Settles O59: outside the commands and the reset neither side changes. -/
theorem everyStepKeepsVoiceAndEnvelopesTogether : Obligations.EveryStepKeepsVoiceAndEnvelopesTogether := by
  intro s t h hstep
  obtain ⟨-, rfl⟩ | ⟨hv, henv⟩ | ⟨c, -, he⟩ := (stepEffect_of_step hstep).voice
  · exact voiceOk_reset
  · exact (voiceOk_congr hv henv).mpr h
  · exact he.keeps_voiceOk (s := s.popRequest) h

end Sys2Proof
end

section
/-! PROOFS. Binary32 operations against exact values: rounding keeps an inequality with a datum (R151), so sums,
differences and quotients of data in a range stay in it. -/

namespace Sys2Proof

open Sys2Proof.Machine Sys2Proof.Claims

/-! Values and signs. -/

theorem mag_le_infMag {x : F32} (h : isNaN x = false) : f32Mag x ≤ infMag := by
  rw [Bool.eq_false_iff, ne_eq, isNaN_iff] at h
  omega

theorem isNaN_eq_false_iff (x : F32) : isNaN x = false ↔ f32Mag x ≤ infMag := by
  rw [Bool.eq_false_iff, ne_eq, isNaN_iff]
  omega

theorem not_nan_of_fle {a b : F32} (h : fle a b = true) : isNaN a = false ∧ isNaN b = false := by
  obtain ⟨ha, hb, -⟩ := (fle_iff a b).mp h
  exact ⟨(isNaN_eq_false_iff a).mpr ha, (isNaN_eq_false_iff b).mpr hb⟩

theorem not_nan_of_flt {a b : F32} (h : flt a b = true) : isNaN a = false ∧ isNaN b = false := by
  obtain ⟨ha, hb, -⟩ := (flt_iff a b).mp h
  exact ⟨(isNaN_eq_false_iff a).mpr ha, (isNaN_eq_false_iff b).mpr hb⟩

theorem fle_iff_value (a b : F32) : fle a b = true ↔ isNaN a = false ∧ isNaN b = false ∧ fixVal a ≤ fixVal b := by
  constructor
  · intro h
    obtain ⟨ha, hb⟩ := not_nan_of_fle h
    exact ⟨ha, hb, (fle_value ha hb).mp h⟩
  · exact fun ⟨ha, hb, h⟩ => (fle_value ha hb).mpr h

theorem flt_iff_value (a b : F32) : flt a b = true ↔ isNaN a = false ∧ isNaN b = false ∧ fixVal a < fixVal b := by
  constructor
  · intro h
    obtain ⟨ha, hb⟩ := not_nan_of_flt h
    exact ⟨ha, hb, (flt_value ha hb).mp h⟩
  · exact fun ⟨ha, hb, h⟩ => (flt_value ha hb).mpr h

theorem fle_of_flt {a b : F32} (h : flt a b = true) : fle a b = true := by
  obtain ⟨ha, hb, h⟩ := (flt_iff_value a b).mp h
  exact (fle_iff_value a b).mpr ⟨ha, hb, h.le⟩

theorem fle_trans {a b c : F32} (h : fle a b = true) (k : fle b c = true) : fle a c = true := by
  rw [fle_iff] at *
  omega

@[simp] theorem fixVal_zero : fixVal fZero = 0 := by decide

theorem nonNegative_iff (x : F32) : nonNegative x ↔ isNaN x = false ∧ 0 ≤ fixVal x := by
  rw [nonNegative, fle_iff_value, fixVal_zero]
  exact ⟨fun ⟨_, hx, h⟩ => ⟨hx, h⟩, fun ⟨hx, h⟩ => ⟨by decide, hx, h⟩⟩

theorem magVal_eq_zero_iff (m : Nat) : magVal m = 0 ↔ m = 0 :=
  ⟨fun h => magVal_strictMono.injective (h.trans (by decide : (0 : Nat) = magVal 0)), fun h => by rw [h]; decide⟩

theorem fixVal_eq_zero_iff (x : F32) : fixVal x = 0 ↔ f32Mag x = 0 := by
  rw [fixVal_eq, ← magVal_eq_zero_iff]
  split <;> omega

theorem fixVal_eq_fixMag {x : F32} (h : f32Sign x = false) : fixVal x = fixMag x := by
  rw [fixVal_eq, h, fixMag_eq]
  rfl

theorem natAbs_fixVal (x : F32) : (fixVal x).natAbs = fixMag x := by
  rw [fixVal_eq, fixMag_eq]
  split <;> omega

/-- A datum that is not negative has no sign, or is a zero. -/
theorem fixMag_eq_zero_of_sign {x : F32} (h : 0 ≤ fixVal x) (hs : f32Sign x = true) : fixMag x = 0 := by
  rw [fixVal_eq, if_pos hs] at h
  rw [fixMag_eq]
  omega

theorem natAbs_f32Key (x : F32) : (f32Key x).natAbs = f32Mag x := by
  rw [f32Key_eq]
  split <;> omega

theorem isFinite_of_fle {a lo hi : F32} (hlo : fle lo a = true) (hhi : fle a hi = true) (hl : isFinite lo = true)
    (hh : isFinite hi = true) : isFinite a = true := by
  obtain ⟨-, -, hlo⟩ := (fle_iff _ _).mp hlo
  obtain ⟨-, -, hhi⟩ := (fle_iff _ _).mp hhi
  rw [isFinite_iff, ← natAbs_f32Key] at *
  omega

theorem isInf_fneg (x : F32) : isInf (fneg x) = isInf x := by
  rw [Bool.eq_iff_iff, isInf_iff, isInf_iff, fneg_mag]

theorem isNaN_fneg (x : F32) : isNaN (fneg x) = isNaN x := by
  rw [Bool.eq_iff_iff, isNaN_iff, isNaN_iff, fneg_mag]

theorem isFinite_fneg (x : F32) : isFinite (fneg x) = isFinite x := by
  rw [Bool.eq_iff_iff, isFinite_iff, isFinite_iff, fneg_mag]

theorem isInf_eq_false_of_finite {x : F32} (h : isFinite x = true) : isInf x = false := by
  rw [isFinite_iff] at h
  rw [Bool.eq_false_iff, ne_eq, isInf_iff]
  omega

theorem finite_or_inf {x : F32} (h : isNaN x = false) : isFinite x = true ∨ isInf x = true := by
  rw [isFinite_iff, isInf_iff]
  have := mag_le_infMag h
  omega

/-! Rounding keeps an inequality with a datum. -/

/-- The exact value ±p/q that is rounded, over its denominator. -/
def signedNum (neg : Bool) (p : Nat) : Int := if neg then -(p : Int) else p

theorem signedNum_natAbs (v : Int) : signedNum (decide (v < 0)) v.natAbs = v := by
  unfold signedNum
  split <;> rename_i h <;> simp only [decide_eq_true_eq] at h <;> omega

theorem fixVal_signedNum (x : F32) : fixVal x = signedNum (f32Sign x) (magVal (f32Mag x)) := fixVal_eq x

theorem fixVal_roundF32 (neg : Bool) (p q : Nat) : fixVal (roundF32 neg p q) = signedNum neg (magVal (roundMag p q)) :=
  roundF32_value neg p q

theorem signedNum_not (neg : Bool) (p : Nat) : signedNum (!neg) p = -signedNum neg p := by
  cases neg <;> simp [signedNum]

/-- What does not exceed a datum does not exceed it after rounding. -/
theorem roundF32_le {neg : Bool} {p q : Nat} {c : F32} (hq : 0 < q) (hc : isNaN c = false)
    (h : signedNum neg p ≤ fixVal c * q) : fixVal (roundF32 neg p q) ≤ fixVal c := by
  have hm := mag_le_infMag hc
  rw [fixVal_roundF32, fixVal_signedNum c]
  rw [fixVal_signedNum c] at h
  have hmono := fun {a b : Nat} (hab : a ≤ b) => magVal_strictMono.monotone hab
  have hpos : ∀ n : Nat, (0 : Int) ≤ (n : Int) * q := fun n => by positivity
  cases neg <;> cases hs : f32Sign c <;> simp only [hs, signedNum, if_true, Bool.false_eq_true, if_false] at h ⊢
  · have := hmono (roundMag_le hq (m := f32Mag c) (by exact_mod_cast h))
    omega
  · have hzero : (p : Int) ≤ 0 := by have := hpos (magVal (f32Mag c)); nlinarith
    have hc0 : magVal (f32Mag c) * q ≤ 0 := by
      have : (magVal (f32Mag c) : Int) * q ≤ 0 := by nlinarith
      exact_mod_cast this
    have hround : roundMag p q ≤ 0 := roundMag_le hq (by rw [show magVal 0 = 0 by decide]; omega)
    have h1 := hmono hround
    have h2 : magVal (f32Mag c) = 0 := by
      rcases Nat.mul_eq_zero.mp (Nat.le_zero.mp hc0) with h0 | h0
      · exact h0
      · omega
    rw [show magVal 0 = 0 by decide] at h1
    omega
  · have := Int.natCast_nonneg (magVal (roundMag p q))
    omega
  · have h' : (magVal (f32Mag c) : Int) * q ≤ p := by linarith
    have := hmono (le_roundMag hq hm (p := p) (by exact_mod_cast h'))
    omega

theorem roundF32_fneg (neg : Bool) (p q : Nat) : roundF32 (!neg) p q = fneg (roundF32 neg p q) :=
  f32_ext (by rw [fneg_sign, roundF32_sign, roundF32_sign]) (by rw [fneg_mag, roundF32_mag, roundF32_mag])

/-- What reaches a datum reaches it after rounding. -/
theorem le_roundF32 {neg : Bool} {p q : Nat} {c : F32} (hq : 0 < q) (hc : isNaN c = false)
    (h : fixVal c * q ≤ signedNum neg p) : fixVal c ≤ fixVal (roundF32 neg p q) := by
  have hneg : signedNum (!neg) p ≤ fixVal (fneg c) * q := by rw [signedNum_not, fixVal_fneg]; linarith
  have := roundF32_le hq (by rw [isNaN_fneg]; exact hc) hneg
  rw [roundF32_fneg, fixVal_fneg, fixVal_fneg] at this
  omega

/-! Sums (R152, R153). -/

theorem fadd_of_finite {a b : F32} (nan : F32) (ha : isFinite a = true) (hb : isFinite b = true) :
    fadd nan a b = if fixVal a + fixVal b = 0 then (if f32Sign a && f32Sign b then fNegZero else fZero)
      else roundF32 (decide (fixVal a + fixVal b < 0)) (fixVal a + fixVal b).natAbs 1 := by
  simp [fadd, finite_not_nan ha, finite_not_nan hb, isInf_eq_false_of_finite ha, isInf_eq_false_of_finite hb]

theorem fadd_of_inf_left {a b : F32} (nan : F32) (ha : isInf a = true) (hb : isNaN b = false) :
    fadd nan a b = if isInf b && f32Sign a != f32Sign b then nan else a := by
  have hna : isNaN a = false := by
    rw [isNaN_eq_false_iff]
    rw [isInf_iff] at ha
    omega
  simp [fadd, hna, hb, ha]

theorem fadd_of_inf_right {a b : F32} (nan : F32) (ha : isFinite a = true) (hb : isInf b = true) :
    fadd nan a b = b := by
  have hnb : isNaN b = false := by
    rw [isNaN_eq_false_iff]
    rw [isInf_iff] at hb
    omega
  simp [fadd, finite_not_nan ha, isInf_eq_false_of_finite ha, hnb, hb]

/-- The two outcomes of a sum of finite data: a zero where the exact sum is 0, and its rounding. -/
theorem fadd_finite_cases {a b : F32} (nan : F32) (ha : isFinite a = true) (hb : isFinite b = true) :
    (fixVal a + fixVal b = 0 ∧ fixVal (fadd nan a b) = 0 ∧ isNaN (fadd nan a b) = false) ∨
      fadd nan a b = roundF32 (decide (fixVal a + fixVal b < 0)) (fixVal a + fixVal b).natAbs 1 := by
  rw [fadd_of_finite nan ha hb]
  split
  next h =>
    left
    split
    · exact ⟨h, by decide, by decide⟩
    · exact ⟨h, by decide, by decide⟩
  next => exact .inr rfl

theorem fadd_finite_not_nan {a b : F32} (nan : F32) (ha : isFinite a = true) (hb : isFinite b = true) :
    isNaN (fadd nan a b) = false := by
  obtain ⟨-, -, h⟩ | h := fadd_finite_cases nan ha hb
  · exact h
  · rw [h]; exact roundF32_not_nan ..

theorem fadd_le {a b c : F32} (nan : F32) (ha : isFinite a = true) (hb : isFinite b = true) (hc : isNaN c = false)
    (h : fixVal a + fixVal b ≤ fixVal c) : fixVal (fadd nan a b) ≤ fixVal c := by
  obtain ⟨h0, hval, -⟩ | hround := fadd_finite_cases nan ha hb
  · rw [hval]; omega
  · rw [hround]
    refine roundF32_le Nat.one_pos hc ?_
    rw [signedNum_natAbs]
    omega

theorem le_fadd {a b c : F32} (nan : F32) (ha : isFinite a = true) (hb : isFinite b = true) (hc : isNaN c = false)
    (h : fixVal c ≤ fixVal a + fixVal b) : fixVal c ≤ fixVal (fadd nan a b) := by
  obtain ⟨h0, hval, -⟩ | hround := fadd_finite_cases nan ha hb
  · rw [hval]; omega
  · rw [hround]
    refine le_roundF32 Nat.one_pos hc ?_
    rw [signedNum_natAbs]
    omega

/-- Data that are not negative have no sign but on a zero. -/
theorem sign_of_inf_nonNegative {x : F32} (h : nonNegative x) (hi : isInf x = true) : f32Sign x = false := by
  rw [nonNegative_iff] at h
  rw [isInf_iff] at hi
  by_contra hs
  have h0 := fixMag_eq_zero_of_sign h.2 (by simpa using hs)
  rw [fixMag_eq, magVal_eq_zero_iff, hi] at h0
  exact absurd h0 (by decide)

theorem fadd_nonNegative {a b : F32} (nan : F32) (ha : nonNegative a) (hb : nonNegative b) :
    nonNegative (fadd nan a b) := by
  obtain ⟨hna, ha0⟩ := (nonNegative_iff a).mp ha
  obtain ⟨hnb, hb0⟩ := (nonNegative_iff b).mp hb
  rcases finite_or_inf hna with hfa | hia
  · rcases finite_or_inf hnb with hfb | hib
    · refine (nonNegative_iff _).mpr ⟨fadd_finite_not_nan nan hfa hfb, ?_⟩
      have := le_fadd nan hfa hfb (c := fZero) (by decide) (by rw [fixVal_zero]; omega)
      rwa [fixVal_zero] at this
    · rwa [fadd_of_inf_right nan hfa hib]
  · rw [fadd_of_inf_left nan hia hnb, if_neg]
    · exact ha
    · intro h
      rw [Bool.and_eq_true] at h
      rw [sign_of_inf_nonNegative ha hia, sign_of_inf_nonNegative hb h.1] at h
      exact absurd h.2 (by decide)

/-- What is taken away does not raise a finite datum. -/
theorem fsub_le {a b : F32} (nan : F32) (ha : isFinite a = true) (hb : nonNegative b) : fle (fsub nan a b) a = true := by
  obtain ⟨hnb, hb0⟩ := (nonNegative_iff b).mp hb
  have hna := finite_not_nan ha
  rw [fsub]
  rcases finite_or_inf hnb with hfb | hib
  · have hfn : isFinite (fneg b) = true := by rwa [isFinite_fneg]
    refine (fle_iff_value _ _).mpr ⟨fadd_finite_not_nan nan ha hfn, hna, fadd_le nan ha hfn hna ?_⟩
    rw [fixVal_fneg]
    omega
  · have hin : isInf (fneg b) = true := by rwa [isInf_fneg]
    rw [fadd_of_inf_right nan ha hin]
    refine (fle_iff_value _ _).mpr ⟨by rwa [isNaN_fneg], hna, ?_⟩
    rw [fixVal_eq, fneg_sign, sign_of_inf_nonNegative hb hib, (isInf_iff _).mp hin]
    have hm := magVal_strictMono.monotone (mag_le_infMag hna)
    rw [fixVal_eq]
    simp only [Bool.not_false, if_true]
    split <;> omega

/-! Quotients (R155). -/

theorem fdiv_of_finite {a b : F32} (nan : F32) (ha : isFinite a = true) (hb : isFinite b = true)
    (hz : isZero b = false) :
    fdiv nan a b = roundF32 (f32Sign a != f32Sign b) (fixMag a * 2 ^ 149) (fixMag b) := by
  simp [fdiv, finite_not_nan ha, finite_not_nan hb, isInf_eq_false_of_finite ha, isInf_eq_false_of_finite hb, hz]

theorem fdiv_of_inf_right {a b : F32} (nan : F32) (ha : isFinite a = true) (hb : isInf b = true) :
    fdiv nan a b = packF32 (f32Sign a != f32Sign b) 0 := by
  have hnb : isNaN b = false := by
    rw [isNaN_eq_false_iff]
    rw [isInf_iff] at hb
    omega
  simp [fdiv, finite_not_nan ha, isInf_eq_false_of_finite ha, hnb, hb]

/-- A positive datum has no sign and a magnitude above 0. -/
theorem positive_iff (x : F32) : flt fZero x = true ↔ isNaN x = false ∧ f32Sign x = false ∧ 0 < fixMag x := by
  rw [flt_iff_value, fixVal_zero, fixVal_eq, fixMag_eq]
  constructor
  · rintro ⟨-, hx, h⟩
    split at h
    · omega
    · rename_i hs
      exact ⟨hx, by simpa using hs, by omega⟩
  · rintro ⟨hx, hs, h⟩
    rw [hs]
    exact ⟨by decide, hx, by simpa using h⟩

theorem signed_zero_nonNegative (neg : Bool) : nonNegative (packF32 neg 0) := by cases neg <;> decide

/-- A finite datum that is not negative over a positive one is not negative. -/
theorem fdiv_nonNegative {a b : F32} (nan : F32) (ha : isFinite a = true) (ha0 : nonNegative a)
    (hb : flt fZero b = true) : nonNegative (fdiv nan a b) := by
  obtain ⟨hnb, hsb, hb0⟩ := (positive_iff b).mp hb
  obtain ⟨-, ha0⟩ := (nonNegative_iff a).mp ha0
  rcases finite_or_inf hnb with hfb | hib
  · have hz : isZero b = false := by
      rw [Bool.eq_false_iff, ne_eq, isZero_iff, ← magVal_eq_zero_iff, ← fixMag_eq]
      omega
    rw [fdiv_of_finite nan ha hfb hz, hsb]
    refine (nonNegative_iff _).mpr ⟨roundF32_not_nan .., ?_⟩
    have hle := le_roundF32 (neg := f32Sign a != false) (p := fixMag a * 2 ^ 149) hb0 (c := fZero) (by decide) (by
      rw [fixVal_zero, Int.zero_mul]
      cases hs : f32Sign a with
      | false => exact Int.natCast_nonneg _
      | true => rw [fixMag_eq_zero_of_sign ha0 hs]; decide)
    rwa [fixVal_zero] at hle
  · rw [fdiv_of_inf_right nan ha hib]
    exact signed_zero_nonNegative _

end Sys2Proof
end

section
/-! PROOFS. The invariant of the envelopes (R262), stage by stage and event by event. Settles O58. -/

namespace Sys2Proof

open Sys2Proof.Machine Sys2Proof.Claims

/-! The range [0, 1]. -/

theorem inUnit_zero : inUnit fZero := by decide

theorem inUnit_one : inUnit fOne := by decide

theorem isFinite_of_inUnit {x : F32} (h : inUnit x) : isFinite x = true :=
  isFinite_of_fle h.1 h.2 (by decide) (by decide)

theorem clamp_inUnit (x : F32) : inUnit (clamp x fZero fOne) := clamp_range (by decide)

/-! The events and the stages of one envelope. -/

theorem killedEnv_ok {x : Envelope} (h : envelopeOk x) : envelopeOk (killedEnv x) := by
  obtain ⟨-, -, hsus, hinc, hdec, hrel⟩ := h
  exact ⟨inUnit_zero, fun _ => rfl, hsus, hinc, hdec, hrel⟩

theorem attackingEnv_ok {x : Envelope} (h : envelopeOk x) : envelopeOk (attackingEnv x) := by
  obtain ⟨hlevel, -, hsus, hinc, hdec, hrel⟩ := h
  refine ⟨?_, fun h => ?_, hsus, hinc, hdec, hrel⟩
  · unfold attackingEnv
    split
    · exact inUnit_zero
    · exact hlevel
  · cases h

/-- The release decrement is positive, or the level itself (R259). -/
theorem releaseDec_nonNegative (nan : F32) {x : Envelope} (h : inUnit x.level) : nonNegative (releaseDec nan x) := by
  unfold releaseDec
  simp only
  generalize (if fgt x.rSamples fZero = true then fdiv nan x.level x.rSamples else x.level) = quotient
  split
  next hpos => exact fle_of_flt hpos
  next => exact h.1

theorem releasingEnv_ok (nan : F32) {x : Envelope} (h : envelopeOk x) : envelopeOk (releasingEnv nan x) := by
  obtain ⟨hlevel, -, hsus, hinc, hdec, -⟩ := h
  refine ⟨hlevel, fun h => ?_, hsus, hinc, hdec, releaseDec_nonNegative nan hlevel⟩
  cases h

/-- 1 less a datum in [0, 1] is finite and not negative. -/
theorem one_minus_unit (nan : F32) {x : F32} (h : inUnit x) :
    isFinite (fsub nan fOne x) = true ∧ nonNegative (fsub nan fOne x) := by
  have hx := isFinite_of_inUnit h
  have hle : fle (fsub nan fOne x) fOne = true := fsub_le nan (by decide) h.1
  have hfn : isFinite (fneg x) = true := by rwa [isFinite_fneg]
  obtain ⟨-, -, h1⟩ := (fle_iff_value _ _).mp h.2
  have hge := le_fadd nan (a := fOne) (b := fneg x) (c := fZero) (by decide) hfn (by decide)
    (by rw [fixVal_zero, fixVal_fneg]; omega)
  rw [fixVal_zero] at hge
  have hnn : nonNegative (fsub nan fOne x) := (nonNegative_iff _).mpr ⟨(not_nan_of_fle hle).1, hge⟩
  exact ⟨isFinite_of_fle hnn hle (by decide) (by decide), hnn⟩

theorem loadEnvelope_ok (nan : Nat → F32) (fs : F32) (p : EnvParams) {x : Envelope} (h : envelopeOk x) :
    envelopeOk (loadEnvelope nan fs p x) := by
  obtain ⟨hlevel, hidle, -, -, -, hrel⟩ := h
  obtain ⟨hfin, hnn⟩ := one_minus_unit (nan 3) (clamp_inUnit p.sustain)
  refine ⟨hlevel, hidle, clamp_inUnit p.sustain, ?attack, ?decay, hrel⟩
  case attack =>
    unfold loadEnvelope
    simp only
    split
    · exact fdiv_nonNegative _ (by decide) (by decide) ‹_›
    · decide
  case decay =>
    unfold loadEnvelope
    simp only
    split
    · exact fdiv_nonNegative _ hfin hnn ‹_›
    · decide

theorem attackNext_ok (nan : F32) {x : Envelope} (h : envelopeOk x) (hst : x.stage = .attack) :
    envelopeOk (attackNext nan x) := by
  obtain ⟨hlevel, -, hsus, hinc, hdec, hrel⟩ := h
  unfold attackNext
  simp only
  split
  next hbelow =>
    refine ⟨⟨fadd_nonNegative nan hlevel.1 hinc, fle_of_flt hbelow⟩, fun h => ?_, hsus, hinc, hdec, hrel⟩
    rw [hst] at h
    cases h
  next => exact ⟨inUnit_one, nofun, hsus, hinc, hdec, hrel⟩

/-- A level that has fallen from [0, 1] and is still above a datum that is not negative is in [0, 1]. -/
theorem fsub_inUnit (nan : F32) {level dec floor : F32} (hlevel : inUnit level) (hdec : nonNegative dec)
    (hfloor : nonNegative floor) (h : fgt (fsub nan level dec) floor = true) : inUnit (fsub nan level dec) :=
  ⟨fle_trans hfloor (fle_of_flt h), fle_trans (fsub_le nan (isFinite_of_inUnit hlevel) hdec) hlevel.2⟩

theorem decayNext_ok (nan : F32) {x : Envelope} (h : envelopeOk x) (hst : x.stage = .decay) :
    envelopeOk (decayNext nan x) := by
  obtain ⟨hlevel, -, hsus, hinc, hdec, hrel⟩ := h
  unfold decayNext
  simp only
  split
  next habove =>
    refine ⟨fsub_inUnit nan hlevel hdec hsus.1 habove, fun h => ?_, hsus, hinc, hdec, hrel⟩
    rw [hst] at h
    cases h
  next => exact ⟨hsus, nofun, hsus, hinc, hdec, hrel⟩

theorem sustainNext_ok {x : Envelope} (h : envelopeOk x) (hst : x.stage = .sustain) : envelopeOk (sustainNext x) := by
  obtain ⟨-, -, hsus, hinc, hdec, hrel⟩ := h
  refine ⟨hsus, fun h => ?_, hsus, hinc, hdec, hrel⟩
  unfold sustainNext at h
  rw [hst] at h
  cases h

theorem releaseNext_ok (nan : F32) {x : Envelope} (h : envelopeOk x) (hst : x.stage = .release) :
    envelopeOk (releaseNext nan x) := by
  obtain ⟨hlevel, -, hsus, hinc, hdec, hrel⟩ := h
  unfold releaseNext
  simp only
  split
  next habove =>
    refine ⟨fsub_inUnit nan hlevel hrel inUnit_zero.1 habove, fun h => ?_, hsus, hinc, hdec, hrel⟩
    rw [hst] at h
    cases h
  next => exact ⟨inUnit_zero, fun _ => rfl, hsus, hinc, hdec, hrel⟩

/-! Both envelopes. -/

/-- The envelope one sample later, by its stage (R254 to R258). -/
def nextEnvelope (nan : F32) (x : Envelope) : Envelope :=
  match x.stage with
  | .idle => idleNext x
  | .attack => attackNext nan x
  | .decay => decayNext nan x
  | .sustain => sustainNext x
  | .release => releaseNext nan x

theorem nextEnvelope_ok (nan : F32) {x : Envelope} (h : envelopeOk x) : envelopeOk (nextEnvelope nan x) := by
  unfold nextEnvelope
  split
  next => exact h
  next hst => exact attackNext_ok nan h hst
  next hst => exact decayNext_ok nan h hst
  next hst => exact sustainNext_ok h hst
  next hst => exact releaseNext_ok nan h hst

theorem putEnv_env (e : EnvIdx) (x : Envelope) (s : State) : (putEnv e x s).env = s.env.set e.val x e.isLt := rfl

theorem envStep_env (e : EnvIdx) (s : State) :
    (envStep e s).env = s.env.set e.val (nextEnvelope (s.nan 0) s.env[e]) e.isLt := by
  unfold envStep nextEnvelope
  cases s.env[e].stage with
  | idle => rw [idleStep, putEnv_env]
  | attack => rw [attackStep, drew_env, putEnv_env]
  | decay => rw [decayStep, drew_env, putEnv_env]
  | sustain => rw [sustainStep, putEnv_env]
  | release => rw [releaseStep, drew_env, putEnv_env]

theorem envelopesOk_congr {s t : State} (h : t.env = s.env) : envelopesOk t ↔ envelopesOk s := by
  unfold envelopesOk
  rw [h]

theorem envStep_envelopesOk (e : EnvIdx) {s : State} (h : envelopesOk s) : envelopesOk (envStep e s) := by
  have hset : envelopesOk (setEnv e (nextEnvelope (s.nan 0) s.env[e]) s) := fun f => by
    rw [setEnv_env]
    split
    · exact nextEnvelope_ok _ (h e)
    · exact h f
  exact (envelopesOk_congr (envStep_env e s)).mpr hset

theorem lfoFinish_env (k : LfoIdx) (s : State) : (lfoFinish k s).env = s.env := rfl

theorem lfoStep_env (k : LfoIdx) (s : State) : (lfoStep k s).env = s.env := by
  rw [lfoStep, lfoFinish_env, seqFrame_env (waveStep_seqFrame k s)]

/-- The envelopes that steps 1 to 3 of a sample find are those of its start. -/
theorem control_env (s : State) : (routeStep (lfoStep 1 (lfoStep 0 s))).env = s.env := by
  rw [seqFrame_env (routeStep_seqFrame _), lfoStep_env, lfoStep_env]

theorem renderFrame_envelopesOk (n : Nat) {s : State} (h : envelopesOk s) : envelopesOk (renderFrame n s) := by
  obtain ⟨-, -, henv, -⟩ := renderFrame_registers n s
  have hcontrol : envelopesOk (voiceControl (frameStart n s)) :=
    envStep_envelopesOk 1 (envStep_envelopesOk 0 ((envelopesOk_congr (control_env _)).mpr h))
  exact (envelopesOk_congr (henv.trans (voiceSampleStep_env _))).mpr hcontrol

theorem CommandEffect.keeps_envelopesOk {s t : State} {c : Command} (he : CommandEffect s c t) (h : envelopesOk s) :
    envelopesOk t := by
  cases he with
  | unchanged | canplay | isactive | setparams | ctrl => exact h
  | refused c flag cause info => rw [takeRefusal_refusalFrame]; exact h
  | prepare => rw [prepareVoice_eq]; intro e; rw [getElem_ofFn_fin]; exact killedEnv_ok (h e)
  | cut => rw [cutVoice_eq]; intro e; rw [getElem_ofFn_fin]; exact killedEnv_ok (h e)
  | startnote note =>
    rw [startVoice_eq]; intro e; rw [getElem_ofFn_fin]; exact attackingEnv_ok (loadEnvelope_ok _ _ _ (h e))
  | release => rw [releaseVoice_eq]; intro e; rw [getElem_ofFn_fin]; exact releasingEnv_ok _ (h e)
  | render count => exact renderFrames_keeps envelopesOk (fun n t _ => renderFrame_envelopesOk n) count 0 h

theorem envelopesOk_reset : envelopesOk State.reset := by decide

/-- Settles O58: the commands and the samples write envelopes by the events and stages above, and nothing else writes
them. -/
theorem everyStepKeepsEnvelopesInRange : Obligations.EveryStepKeepsEnvelopesInRange := by
  intro s t h hstep
  obtain ⟨-, rfl⟩ | ⟨-, henv⟩ | ⟨c, -, he⟩ := (stepEffect_of_step hstep).voice
  · exact envelopesOk_reset
  · exact (envelopesOk_congr henv).mpr h
  · exact he.keeps_envelopesOk (s := s.popRequest) h

end Sys2Proof
end

section
/-! PROOFS. The STAGE bank as the layout table reads it (R39, R342): the kind of each word, the first offending word, and
the snapshot that is published. Settles O39 and O40. -/

namespace Sys2Proof

open Sys2Proof.Machine Sys2Proof.Claims

/-! The layout (R39). -/

theorem stageKind_bounds {a : Nat} {kind : FieldKind} (h : stageKind a = some kind) : 0x100 ≤ a ∧ a ≤ 0x1A3 := by
  unfold stageKind at h
  split_ifs at h <;> omega

theorem mem_stageAddrs_iff (a : Nat) : a ∈ stageAddrs ↔ 0x100 ≤ a ∧ a ≤ 0x1A3 := by
  simp only [stageAddrs, stageBase, List.mem_map, List.mem_range]
  constructor
  · rintro ⟨k, hk, rfl⟩
    omega
  · exact fun h => ⟨a - 0x100, by omega, by omega⟩

theorem stageRead_of_kind {a : Nat} {kind : FieldKind} (h : stageKind a = some kind) (s : State) :
    stageRead a s = stageWord s a := by
  rw [stageRead, h]
  rfl

/-- The words of a kind, as the claims list them. -/
def kindField (kind : FieldKind) (a : Nat) : Prop :=
  match kind with
  | .float => floatField a
  | .flag => (∃ e : Fin 2, a = 0x104 + 8 * e.val) ∨ ∃ k : Fin 2, a = 0x113 + 8 * k.val
  | .mode => ∃ i : Fin 6, a = 0x130 + 8 * i.val
  | .wave => ∃ k : Fin 2, a = 0x112 + 8 * k.val
  | .src => ∃ j : Fin 8, a = 0x160 + 4 * j.val
  | .envsrc => ∃ i : Fin 6, a = 0x137 + 8 * i.val
  | .dest => (∃ k : Fin 2, a = 0x114 + 8 * k.val) ∨ ∃ j : Fin 8, a = 0x161 + 4 * j.val

theorem stageKind_float {a : Nat} (h : floatField a) : stageKind a = some .float := by
  unfold floatField at h
  obtain ⟨e, o, rfl⟩ | ⟨k, rfl | rfl | rfl⟩ | rfl | ⟨i, o, rfl⟩ | ⟨j, rfl⟩ | ⟨i, j, rfl⟩ := h
  · revert e o; decide
  · revert k; decide
  · revert k; decide
  · revert k; decide
  · decide
  · revert i o; decide
  · revert j; decide
  · revert i j; decide

theorem stageKind_of_kindField {kind : FieldKind} {a : Nat} (h : kindField kind a) : stageKind a = some kind := by
  cases kind with
  | float => exact stageKind_float h
  | flag =>
    obtain ⟨e, rfl⟩ | ⟨k, rfl⟩ := h
    · revert e; decide
    · revert k; decide
  | mode => obtain ⟨i, rfl⟩ := h; revert i; decide
  | wave => obtain ⟨k, rfl⟩ := h; revert k; decide
  | src => obtain ⟨j, rfl⟩ := h; revert j; decide
  | envsrc => obtain ⟨i, rfl⟩ := h; revert i; decide
  | dest =>
    obtain ⟨k, rfl⟩ | ⟨j, rfl⟩ := h
    · revert k; decide
    · revert j; decide

/-- Every word of the bank is of the kind the table gives it, and no other. -/
theorem kindField_of_stageKind {kind : FieldKind} {a : Nat} (h : stageKind a = some kind) : kindField kind a := by
  unfold stageKind at h
  split_ifs at h with h1 h2 h3 h4 h5 h6 h7 h8
  · split at h <;> cases h
    all_goals rename_i ho
    · exact .inl ⟨⟨(a - 0x100) / 8, by omega⟩, 0, by simp; omega⟩
    · exact .inl ⟨⟨(a - 0x100) / 8, by omega⟩, 1, by simp; omega⟩
    · exact .inl ⟨⟨(a - 0x100) / 8, by omega⟩, 2, by simp; omega⟩
    · exact .inl ⟨⟨(a - 0x100) / 8, by omega⟩, 3, by simp; omega⟩
    · exact .inl ⟨⟨(a - 0x100) / 8, by omega⟩, by simp; omega⟩
  · split at h <;> cases h
    all_goals rename_i ho
    · exact .inr (.inl ⟨⟨(a - 0x110) / 8, by omega⟩, .inl (by simp; omega)⟩)
    · exact .inr (.inl ⟨⟨(a - 0x110) / 8, by omega⟩, .inr (.inl (by simp; omega))⟩)
    · exact .inr (.inl ⟨⟨(a - 0x110) / 8, by omega⟩, .inr (.inr (by simp; omega))⟩)
    · exact ⟨⟨(a - 0x110) / 8, by omega⟩, by simp; omega⟩
    · exact .inr ⟨⟨(a - 0x110) / 8, by omega⟩, by simp; omega⟩
    · exact .inl ⟨⟨(a - 0x110) / 8, by omega⟩, by simp; omega⟩
  · cases h
    exact .inr (.inr (.inl h4))
  · split at h <;> cases h
    · exact ⟨⟨(a - 0x130) / 8, by omega⟩, by simp; omega⟩
    · exact ⟨⟨(a - 0x130) / 8, by omega⟩, by simp; omega⟩
    · rename_i hne0 hne7
      change ¬_ at hne0 hne7
      exact .inr (.inr (.inr (.inl
        ⟨⟨(a - 0x130) / 8, by omega⟩, ⟨(a - 0x130) % 8 - 1, by omega⟩, by simp; omega⟩)))
  · split at h <;> cases h
    · exact ⟨⟨(a - 0x160) / 4, by omega⟩, by simp; omega⟩
    · exact .inr ⟨⟨(a - 0x160) / 4, by omega⟩, by simp; omega⟩
    · exact .inr (.inr (.inr (.inr (.inl ⟨⟨(a - 0x160) / 4, by omega⟩, by simp; omega⟩))))
  · cases h
    exact .inr (.inr (.inr (.inr (.inr
      ⟨⟨(a - 0x180) / 6, by omega⟩, ⟨(a - 0x180) % 6, by omega⟩, by simp; omega⟩))))

/-! Offending words (R342, R385). -/

/-- A word offends when its kind does not allow it. -/
theorem offends_iff (s : State) (a cause : Nat) : Offends s a cause ↔
    ∃ kind c, kindField kind a ∧ fieldFault kind (stageWord s a) = some c ∧ cause = c.toNat := by
  constructor
  · rintro (⟨rfl, hf, hv⟩ | ⟨rfl, hf, hv⟩ | ⟨rfl, hf, hv⟩ | ⟨rfl, hf, hv⟩ | ⟨rfl, hf, hv⟩)
    · exact ⟨.float, causeFloat, hf, by simp [fieldFault, hv], rfl⟩
    · exact ⟨.wave, causeWave, hf, by rw [fieldFault, if_pos hv], rfl⟩
    · exact ⟨.dest, causeDest, hf, by rw [fieldFault, if_pos hv], rfl⟩
    · exact ⟨.envsrc, causeEnvsrc, hf, by rw [fieldFault, if_pos hv], rfl⟩
    · exact ⟨.src, causeSrc, hf, by rw [fieldFault, if_pos hv], rfl⟩
  · rintro ⟨kind, c, hf, hv, rfl⟩
    cases kind <;> simp only [fieldFault, Option.ite_none_left_eq_some, Option.ite_none_right_eq_some,
      Option.some.injEq, reduceCtorEq] at hv
    all_goals obtain ⟨hv, rfl⟩ := hv
    case float => exact .inl ⟨rfl, hf, by simpa using hv⟩
    case wave => exact .inr (.inl ⟨rfl, hf, hv⟩)
    case dest => exact .inr (.inr (.inl ⟨rfl, hf, hv⟩))
    case envsrc => exact .inr (.inr (.inr (.inl ⟨rfl, hf, hv⟩)))
    case src => exact .inr (.inr (.inr (.inr ⟨rfl, hf, hv⟩)))

/-- The machine's test of one word is the claims'. -/
theorem stageFault_eq_some_iff (s : State) (a : Nat) (fault : BitVec 8 × Nat) :
    stageFault s a = some fault ↔ fault.2 = a ∧ Offends s a fault.1.toNat := by
  obtain ⟨c, b⟩ := fault
  rw [offends_iff]
  unfold stageFault
  constructor
  · intro h
    cases hkind : stageKind a with
    | none => rw [hkind] at h; cases h
    | some kind =>
      rw [hkind] at h
      obtain ⟨c', hc, heq⟩ := Option.map_eq_some_iff.mp h
      cases heq
      rw [stageRead_of_kind hkind] at hc
      exact ⟨rfl, kind, c, kindField_of_stageKind hkind, hc, rfl⟩
  · rintro ⟨rfl, kind, c', hf, hv, hc⟩
    have hkind := stageKind_of_kindField hf
    cases BitVec.eq_of_toNat_eq hc
    simp only [hkind, stageRead_of_kind hkind, hv, Option.map_some]

theorem stageFault_of_offends {s : State} {a cause : Nat} (h : Offends s a cause) :
    stageFault s a = some (BitVec.ofNat 8 cause, a) := by
  obtain ⟨-, c, -, -, rfl⟩ := (offends_iff s a cause).mp h
  rw [BitVec.ofNat_toNat, BitVec.setWidth_eq]
  exact (stageFault_eq_some_iff s a (c, a)).mpr ⟨rfl, h⟩

theorem stageFault_eq_none {s : State} {a : Nat} (h : ∀ cause, ¬Offends s a cause) : stageFault s a = none := by
  cases hfault : stageFault s a with
  | none => rfl
  | some fault => exact absurd ((stageFault_eq_some_iff s a fault).mp hfault).2 (h _)

theorem mem_stageAddrs_of_offends {s : State} {a cause : Nat} (h : Offends s a cause) : a ∈ stageAddrs := by
  obtain ⟨kind, c, hf, -⟩ := (offends_iff s a cause).mp h
  exact (mem_stageAddrs_iff a).mpr (stageKind_bounds (stageKind_of_kindField hf))

theorem firstStageFault_eq_none_iff (s : State) : firstStageFault s = none ↔ ∀ a cause, ¬Offends s a cause := by
  rw [firstStageFault, List.findSome?_eq_none_iff]
  constructor
  · intro h a cause hoff
    have hnone := h a (mem_stageAddrs_of_offends hoff)
    rw [stageFault_of_offends hoff] at hnone
    cases hnone
  · exact fun h a _ => stageFault_eq_none (h a)

theorem stageAddrs_sorted : stageAddrs.Pairwise (· < ·) :=
  List.Pairwise.map _ (fun _ _ h => Nat.add_lt_add_left h _) List.pairwise_lt_range

/-- The search stops at the first offending address. -/
theorem firstStageFault_of_first {s : State} {a cause : Nat} (h : Offends s a cause)
    (hfirst : ∀ b, b < a → ∀ c, ¬Offends s b c) : firstStageFault s = some (BitVec.ofNat 8 cause, a) := by
  obtain ⟨before, after, hsplit⟩ := List.append_of_mem (mem_stageAddrs_of_offends h)
  have hbefore : ∀ b ∈ before, b < a := by
    have hsorted := hsplit ▸ stageAddrs_sorted
    exact fun b hb => (List.pairwise_append.mp hsorted).2.2 b hb a List.mem_cons_self
  rw [firstStageFault, hsplit, List.findSome?_append, List.findSome?_eq_none_iff.mpr fun b hb =>
    stageFault_eq_none (hfirst b (hbefore b hb)), List.findSome?_cons, stageFault_of_offends h]
  rfl

/-- Settles O40. -/
theorem setparamsRefusesTheFirstOffender : Obligations.SetparamsRefusesTheFirstOffender := by
  intro s a cause h hfirst
  exact ⟨_, exec_setparams_of_fault (firstStageFault_of_first h hfirst), takeRefusal_refused ..,
    takeRefusal_memoryKept ..⟩

/-! The snapshot (R39, R40). -/

/-- The kinds of an envelope's words, of an LFO's, and of an operator's floats, in the order of the table. -/
theorem stageKind_env (e : EnvIdx) :
    stageKind (0x100 + 8 * e.val) = some .float ∧ stageKind (0x101 + 8 * e.val) = some .float ∧
    stageKind (0x102 + 8 * e.val) = some .float ∧ stageKind (0x103 + 8 * e.val) = some .float ∧
    stageKind (0x104 + 8 * e.val) = some .flag := by
  revert e; decide

theorem stageKind_lfo (k : LfoIdx) :
    stageKind (0x110 + 8 * k.val) = some .float ∧ stageKind (0x111 + 8 * k.val) = some .float ∧
    stageKind (0x112 + 8 * k.val) = some .wave ∧ stageKind (0x113 + 8 * k.val) = some .flag ∧
    stageKind (0x114 + 8 * k.val) = some .dest ∧ stageKind (0x115 + 8 * k.val) = some .float := by
  revert k; decide

theorem stageKind_op (i : OpIdx) :
    stageKind (0x130 + 8 * i.val) = some .mode ∧ stageKind (0x131 + 8 * i.val) = some .float ∧
    stageKind (0x132 + 8 * i.val) = some .float ∧ stageKind (0x133 + 8 * i.val) = some .float ∧
    stageKind (0x134 + 8 * i.val) = some .float ∧ stageKind (0x135 + 8 * i.val) = some .float ∧
    stageKind (0x136 + 8 * i.val) = some .float ∧ stageKind (0x137 + 8 * i.val) = some .envsrc := by
  revert i; decide

theorem stageKind_slot (j : SlotIdx) :
    stageKind (0x160 + 4 * j.val) = some .src ∧ stageKind (0x161 + 4 * j.val) = some .dest ∧
    stageKind (0x162 + 4 * j.val) = some .float := by
  revert j; decide

theorem stageKind_matrix (i j : OpIdx) : stageKind (0x180 + 6 * i.val + j.val) = some .float :=
  stageKind_float (.inr (.inr (.inr (.inr (.inr ⟨i, j, rfl⟩)))))

theorem stageSnapshot_env (s : State) (e : EnvIdx) : (stageSnapshot s).env[e] = stageEnv s (0x100 + 8 * e.val) := by
  fin_cases e <;> rfl

theorem stageSnapshot_lfo (s : State) (k : LfoIdx) : (stageSnapshot s).lfo[k] = stageLfo s (0x110 + 8 * k.val) := by
  fin_cases k <;> rfl

theorem stageSnapshot_op (s : State) (i : OpIdx) : (stageSnapshot s).op[i] = stageOp s (0x130 + 8 * i.val) := by
  fin_cases i <;> rfl

theorem stageSnapshot_slot (s : State) (j : SlotIdx) : (stageSnapshot s).slot[j] = stageSlot s (0x160 + 4 * j.val) := by
  fin_cases j <;> rfl

theorem stageSnapshot_matrix (s : State) (i j : OpIdx) :
    (stageSnapshot s).matrix[i][j] = stageRead (0x180 + 6 * i.val + j.val) s := by
  fin_cases i <;> fin_cases j <;> rfl

theorem fieldFault_of_legal {s : State} (h : ∀ a cause, ¬Offends s a cause) {kind : FieldKind} {a : Nat}
    (hk : stageKind a = some kind) : fieldFault kind (stageWord s a) = none := by
  cases hv : fieldFault kind (stageWord s a) with
  | none => rfl
  | some c => exact absurd ((offends_iff s a c.toNat).mpr ⟨kind, c, kindField_of_stageKind hk, hv, rfl⟩) (h a _)

/-- A selector word that its kind admits fits its type (log 16). -/
theorem selector_val {s : State} {a n : Nat} {kind : FieldKind} {c : BitVec 8} (hk : stageKind a = some kind)
    (hkind : ∀ w, fieldFault kind w = if n < w.toNat then some c else none) (h : fieldFault kind (stageWord s a) = none) :
    (Fin.ofNat (n + 1) (stageRead a s).toNat).val = (stageWord s a).toNat := by
  rw [hkind] at h
  rw [stageRead_of_kind hk]
  refine Nat.mod_eq_of_lt ?_
  split at h
  · cases h
  · omega

theorem publish_memoryKept (s : State) : memoryKept s (publish s) := ⟨fun _ => rfl, fun _ _ => rfl⟩

theorem publish_act (s : State) : (publish s).act = stageSnapshot s := rfl

/-- Settles O39, field by field: a STAGE word of the table is read as it stands, and a legal selector fits its type. -/
theorem setparamsPublishesTheSnapshot : Obligations.SetparamsPublishesTheSnapshot := by
  intro s h
  have word {a b : Nat} {kind : FieldKind} (hk : stageKind b = some kind) (hab : a = b) :
      stageRead a s = stageWord s b := by rw [hab, stageRead_of_kind hk]
  refine ⟨publish s, exec_setparams_of_legal ((firstStageFault_eq_none_iff s).mpr h), rfl, publish_memoryKept s,
    ?mw, fun e => ?env, fun k => ?lfo, fun i => ?op, fun j => ?slot, fun i j => ?matrix⟩
  case' env | lfo | op | slot | matrix => rw [publish_act]
  case mw => exact word (a := 0x120) (kind := .float) rfl rfl
  case env =>
    obtain ⟨hattack, hdecay, hsustain, hrelease, hretrig⟩ := stageKind_env e
    rw [stageSnapshot_env, stageEnv, EnvParams.mk.injEq]
    exact ⟨word hattack rfl, word hdecay (by omega), word hsustain (by omega), word hrelease (by omega),
      congrArg (·.getLsbD 0) (word hretrig (by omega))⟩
  case lfo =>
    obtain ⟨hfreq, hamount, hwave, hsync, hddest, hddepth⟩ := stageKind_lfo k
    rw [stageSnapshot_lfo, stageLfo, show 0x110 + 8 * k.val + 2 = 0x112 + 8 * k.val by omega,
      show 0x110 + 8 * k.val + 4 = 0x114 + 8 * k.val by omega]
    exact ⟨word hfreq rfl, word hamount (by omega),
      selector_val hwave (fun _ => rfl) (fieldFault_of_legal h hwave), congrArg (·.getLsbD 0) (word hsync (by omega)),
      selector_val hddest (fun _ => rfl) (fieldFault_of_legal h hddest), word hddepth (by omega)⟩
  case op =>
    obtain ⟨hmode, hratio, hsgain, hpgain, hctx1, hctx2, hkeytrk, henvsrc⟩ := stageKind_op i
    rw [stageSnapshot_op, stageOp, show 0x130 + 8 * i.val + 7 = 0x137 + 8 * i.val by omega]
    exact ⟨word hmode rfl, word hratio (by omega), word hsgain (by omega), word hpgain (by omega),
      word hctx1 (by omega), word hctx2 (by omega), word hkeytrk (by omega),
      selector_val henvsrc (fun _ => rfl) (fieldFault_of_legal h henvsrc)⟩
  case slot =>
    obtain ⟨hsrc, hdest, hamount⟩ := stageKind_slot j
    rw [stageSnapshot_slot, stageSlot, show 0x160 + 4 * j.val + 1 = 0x161 + 4 * j.val by omega]
    exact ⟨selector_val hsrc (fun _ => rfl) (fieldFault_of_legal h hsrc),
      selector_val hdest (fun _ => rfl) (fieldFault_of_legal h hdest), word hamount (by omega)⟩
  case matrix =>
    rw [stageSnapshot_matrix]
    exact word (stageKind_matrix i j) rfl

end Sys2Proof
end

section
/-! PROOFS. The sample rate in binary64 and binary32 (R164, R341), and the invariant of the prepared parameters. Settles
O55 and O60. -/

namespace Sys2Proof

open Sys2Proof.Machine Sys2Proof.Claims

/-! Binary64 magnitudes. -/

/-- The low 63 bits of a binary64 datum. -/
def f64Mag (d : F64) : Nat := (d.extractLsb' 0 63).toNat

/-- The magnitude, in units of 2^-1074, of the datum with the given low 63 bits. -/
def magVal64 (m : Nat) : Nat := if m < 2 ^ 52 then m else (2 ^ 52 + m % 2 ^ 52) * 2 ^ (m / 2 ^ 52 - 1)

/-- The magnitude of a word of a normal datum, from its significand and exponent. -/
theorem magVal64_normal {m s e : Nat} (h : ¬ m < 2 ^ 52) (hs : 2 ^ 52 + m % 2 ^ 52 = s) (he : m / 2 ^ 52 - 1 = e) :
    magVal64 m = s * 2 ^ e := by
  rw [magVal64, if_neg h, hs, he]

theorem magVal64_minRate : 44100 * 2 ^ 1074 = magVal64 0x40E5888000000000 := by
  rw [magVal64_normal (s := 44100 * 2 ^ 37) (e := 1037) (by decide) (by decide) (by decide), mul_assoc, ← pow_add]

theorem magVal64_maxRate : 192000 * 2 ^ 1074 = magVal64 0x4107700000000000 := by
  rw [magVal64_normal (s := 192000 * 2 ^ 35) (e := 1039) (by decide) (by decide) (by decide), mul_assoc, ← pow_add]

theorem magVal64_infinity : magVal64 (2047 * 2 ^ 52) = 2 ^ 52 * 2 ^ 2046 :=
  magVal64_normal (by decide) (by decide) (by decide)

theorem maxRate_lt_infinity {m n : Nat} (h : m ≤ n) : 192000 * 2 ^ m < 2 ^ 52 * 2 ^ n :=
  Nat.mul_lt_mul_of_lt_of_le (by decide) (Nat.pow_le_pow_right (by decide) h) (by positivity)

theorem f64Mag_eq (d : F64) : f64Mag d = d.toNat % 2 ^ 63 := by
  simp [f64Mag, BitVec.extractLsb'_toNat]

theorem f64Exp_eq (d : F64) : f64Exp d = f64Mag d / 2 ^ 52 := by
  rw [f64Mag_eq]
  simp only [f64Exp, BitVec.extractLsb'_toNat, Nat.shiftRight_eq_div_pow]
  omega

theorem f64Frac_eq (d : F64) : f64Frac d = f64Mag d % 2 ^ 52 := by
  rw [f64Mag_eq]
  simp only [f64Frac, BitVec.extractLsb'_toNat, Nat.shiftRight_eq_div_pow]
  omega

theorem fixMag64_eq (d : F64) : fixMag64 d = magVal64 (f64Mag d) := by
  simp only [fixMag64, magVal64, f64Exp_eq, f64Frac_eq]
  by_cases h : f64Mag d < 2 ^ 52
  · rw [if_pos (by omega), if_pos h]
    omega
  · rw [if_neg (by omega), if_neg h]

theorem magVal64_mono : Monotone magVal64 := by
  refine monotone_nat_of_le_succ fun m => ?_
  by_cases h : m + 1 < 2 ^ 52
  · rw [magVal64, magVal64, if_pos h, if_pos (by omega)]
    omega
  rw [magVal64, magVal64, if_neg h]
  by_cases hlow : m < 2 ^ 52
  · have hm : m + 1 = 2 ^ 52 := by omega
    rw [if_pos hlow, hm]
    norm_num
    omega
  rw [if_neg hlow]
  by_cases hcarry : m % 2 ^ 52 + 1 = 2 ^ 52
  · rw [show (m + 1) % 2 ^ 52 = 0 by omega, show (m + 1) / 2 ^ 52 - 1 = m / 2 ^ 52 - 1 + 1 by omega, pow_succ]
    calc (2 ^ 52 + m % 2 ^ 52) * 2 ^ (m / 2 ^ 52 - 1)
        ≤ 2 ^ 53 * 2 ^ (m / 2 ^ 52 - 1) := Nat.mul_le_mul_right _ (by omega)
      _ = (2 ^ 52 + 0) * (2 ^ (m / 2 ^ 52 - 1) * 2) := by ring
  · rw [show (m + 1) % 2 ^ 52 = m % 2 ^ 52 + 1 by omega, show (m + 1) / 2 ^ 52 - 1 = m / 2 ^ 52 - 1 by omega]
    exact Nat.mul_le_mul_right _ (by omega)

/-! The legal rates (R341). -/

/-- A rate PREPARE accepts has no sign, and lies between FS_MIN and FS_MAX. -/
theorem legal_rate {d : F64} (h : rateBad d = false) :
    isNaN64 d = false ∧ f64Sign d = false ∧ 44100 * 2 ^ 1074 ≤ fixMag64 d ∧ fixMag64 d ≤ 192000 * 2 ^ 1074 := by
  simp only [rateBad, Bool.or_eq_false_iff] at h
  obtain ⟨⟨hnan, hmin⟩, hmax⟩ := h
  have hmin' : 0x40E5888000000000 ≤ f64Key d := by
    have hkey : f64Key 0x40E5888000000000#64 = 0x40E5888000000000 := by decide
    have hn : isNaN64 0x40E5888000000000#64 = false := by decide
    simp only [flt64, hnan, hn, hkey, Bool.not_false, Bool.and_self, Bool.true_and, decide_eq_false_iff_not] at hmin
    omega
  have hmax' : f64Key d ≤ 0x4107700000000000 := by
    have hkey : f64Key 0x4107700000000000#64 = 0x4107700000000000 := by decide
    have hn : isNaN64 0x4107700000000000#64 = false := by decide
    simp only [flt64, hnan, hn, hkey, Bool.not_false, Bool.and_self, Bool.true_and, decide_eq_false_iff_not] at hmax
    omega
  have hsign : f64Sign d = false := by
    by_contra hs
    rw [f64Key, if_pos (by simpa using hs)] at hmin'
    omega
  have hkey : f64Key d = f64Mag d := by
    rw [f64Key, hsign]
    rfl
  rw [hkey] at hmin' hmax'
  refine ⟨hnan, hsign, ?_, ?_⟩
  · rw [fixMag64_eq, magVal64_minRate]
    exact magVal64_mono (by omega)
  · rw [fixMag64_eq, magVal64_maxRate]
    exact magVal64_mono (by omega)

theorem f64ToF32_of_legal {d : F64} (nan : F32) (h : rateBad d = false) :
    f64ToF32 nan d = roundF32 false (fixMag64 d) (2 ^ 925) := by
  obtain ⟨hnan, hsign, -, hmax⟩ := legal_rate h
  have hexp : f64Exp d ≠ 2047 := by
    intro he
    have hm : 2047 * 2 ^ 52 ≤ f64Mag d := by rw [f64Exp_eq] at he; omega
    have := magVal64_mono hm
    rw [← fixMag64_eq, magVal64_infinity] at this
    have hbig : 192000 * 2 ^ 1074 < 2 ^ 52 * 2 ^ 2046 := maxRate_lt_infinity (by decide)
    omega
  rw [f64ToF32, hnan, if_neg (by decide), if_neg hexp, hsign]

/-- The conversion of a legal rate keeps it between FS_MIN and FS_MAX, which are binary32 data. -/
theorem f64ToF32_legal_range {d : F64} (nan : F32) (h : rateBad d = false) :
    fle 0x472C4400#32 (f64ToF32 nan d) = true ∧ fle (f64ToF32 nan d) 0x483B8000#32 = true := by
  obtain ⟨-, -, hmin, hmax⟩ := legal_rate h
  have hlo : fixVal 0x472C4400#32 = 44100 * 2 ^ 149 := rfl
  have hhi : fixVal 0x483B8000#32 = 192000 * 2 ^ 149 := rfl
  have hround := roundF32_not_nan false (fixMag64 d) (2 ^ 925)
  rw [f64ToF32_of_legal nan h, fle_iff_value, fle_iff_value, hlo, hhi]
  rw [show (2 : Nat) ^ 1074 = 2 ^ 149 * 2 ^ 925 by rw [← pow_add]] at hmin hmax
  have hq : (0 : Nat) < 2 ^ 925 := by positivity
  generalize 2 ^ 925 = q at *
  refine ⟨⟨by decide, hround, ?_⟩, hround, by decide, ?_⟩
  · rw [← hlo]
    refine le_roundF32 hq (by decide) ?_
    rw [hlo, mul_assoc]
    exact (by exact_mod_cast hmin : (44100 * (2 ^ 149 * q) : Int) ≤ fixMag64 d)
  · rw [← hhi]
    refine roundF32_le hq (by decide) ?_
    rw [hhi, mul_assoc]
    exact (by exact_mod_cast hmax : (fixMag64 d : Int) ≤ 192000 * (2 ^ 149 * q))

/-! The prepared parameters (R28, R126). -/

/-- Both halves of the invariant. -/
def ParametersLegal (s : State) : Prop := preparedOk s ∧ parametersFinite s

theorem parametersLegal_congr {s t : State} (h : RegistersKept s t) (hs : ParametersLegal s) : ParametersLegal t := by
  obtain ⟨hact, hmw, hfs, hsize, hprep, -⟩ := h
  unfold ParametersLegal preparedOk parametersFinite
  rw [hact, hmw, hfs, hsize, hprep]
  exact hs

/-- PREPARE stores a legal rate and block size. -/
theorem preparedOk_of_legal {s : State} (hrate : rateBad (rateOperand s) = false)
    (hsize : blockSizeBad (blockSizeOperand s) = false) :
    fle 0x472C4400#32 (f64ToF32 (s.nan 0) (rateOperand s)) = true ∧
    fle (f64ToF32 (s.nan 0) (rateOperand s)) 0x483B8000#32 = true ∧
    (BitVec.ofNat Config.params.blockBits (blockSizeOperand s)).toNat = blockSizeOperand s ∧
    1 ≤ blockSizeOperand s ∧ blockSizeOperand s ≤ 4096 := by
  obtain ⟨hmin, hmax⟩ := f64ToF32_legal_range (s.nan 0) hrate
  have hbs : ¬(blockSizeOperand s < 1 ∨ 4096 < blockSizeOperand s) := of_decide_eq_false hsize
  refine ⟨hmin, hmax, ?_, by omega, by omega⟩
  rw [BitVec.toNat_ofNat]
  exact Nat.mod_eq_of_lt (show blockSizeOperand s < 8192 by omega)

/-- SETPARAMS publishes finite floats only. -/
theorem publish_parametersFinite {s : State} (h : firstStageFault s = none) : parametersFinite (publish s) := by
  have legal := (firstStageFault_eq_none_iff s).mp h
  have float {a b : Nat} (hk : stageKind b = some .float) (hab : a = b) : isFinite (stageRead a s) = true := by
    have hv := fieldFault_of_legal legal hk
    rw [hab, stageRead_of_kind hk]
    simpa [fieldFault] using hv
  refine ⟨fun e => ?env, fun k => ?lfo, fun i => ?op, fun j => ?slot, fun i j => ?matrix,
    float (a := modwheelAddr) (b := modwheelAddr) rfl rfl⟩
  all_goals rw [publish_act]
  case env =>
    obtain ⟨hattack, hdecay, hsustain, hrelease, -⟩ := stageKind_env e
    rw [stageSnapshot_env]
    exact ⟨float hattack rfl, float hdecay (by omega), float hsustain (by omega), float hrelease (by omega)⟩
  case lfo =>
    obtain ⟨hfreq, hamount, -, -, -, hddepth⟩ := stageKind_lfo k
    rw [stageSnapshot_lfo]
    exact ⟨float hfreq rfl, float hamount (by omega), float hddepth (by omega)⟩
  case op =>
    obtain ⟨-, hratio, hsgain, hpgain, hctx1, hctx2, hkeytrk, -⟩ := stageKind_op i
    rw [stageSnapshot_op]
    exact ⟨float hratio (by omega), float hsgain (by omega), float hpgain (by omega), float hctx1 (by omega),
      float hctx2 (by omega), float hkeytrk (by omega)⟩
  case slot =>
    obtain ⟨-, -, hamount⟩ := stageKind_slot j
    rw [stageSnapshot_slot]
    exact float hamount (by omega)
  case matrix =>
    rw [stageSnapshot_matrix]
    exact float (stageKind_matrix i j) rfl

theorem CommandEffect.keeps_parametersLegal {s t : State} {c : Command} (he : CommandEffect s c t)
    (h : ParametersLegal s) : ParametersLegal t := by
  obtain ⟨hprep, henv, hlfo, hop, hslot, hmatrix, hmw⟩ := h
  cases he with
  | unchanged | canplay | isactive => exact ⟨hprep, henv, hlfo, hop, hslot, hmatrix, hmw⟩
  | refused c flag cause info =>
    exact parametersLegal_congr (takeRefusal_registersKept flag cause info s) ⟨hprep, henv, hlfo, hop, hslot, hmatrix, hmw⟩
  | prepare hrate hsize =>
    obtain ⟨hmin, hmax, hbits, h1, h2⟩ := preparedOk_of_legal hrate hsize
    rw [prepareVoice_eq]
    exact ⟨fun _ => ⟨hmin, hmax, by rw [hbits]; exact h1, by rw [hbits]; exact h2⟩, henv, hlfo, hop, hslot, hmatrix, hmw⟩
  | startnote note => rw [startVoice_eq]; exact ⟨hprep, henv, hlfo, hop, hslot, hmatrix, hmw⟩
  | release => rw [releaseVoice_eq]; exact ⟨hprep, henv, hlfo, hop, hslot, hmatrix, hmw⟩
  | cut => rw [cutVoice_eq]; exact ⟨hprep, henv, hlfo, hop, hslot, hmatrix, hmw⟩
  | setparams hlegal => exact ⟨hprep, publish_parametersFinite hlegal⟩
  | render count =>
    exact parametersLegal_congr (registersKept_of_renderWrites (render_renderWrites count s))
      ⟨hprep, henv, hlfo, hop, hslot, hmatrix, hmw⟩
  | ctrl hfin => exact ⟨hprep, henv, hlfo, hop, hslot, hmatrix, hfin⟩

theorem parametersLegal_reset : ParametersLegal State.reset := by
  unfold ParametersLegal
  decide

theorem hwreset_parametersLegal (s : State) : ParametersLegal (hwresetStep s) :=
  parametersLegal_congr (s := State.reset) ⟨rfl, rfl, rfl, rfl, rfl, rfl, rfl⟩ parametersLegal_reset

/-- Settles O60: PREPARE, SETPARAMS and CTRL check what they store, and no other step stores these registers. -/
theorem everyStepKeepsParametersLegal : Obligations.EveryStepKeepsParametersLegal := by
  intro s t hprep hfin hstep
  have hs : ParametersLegal s := ⟨hprep, hfin⟩
  obtain ⟨-, rfl⟩ | h | ⟨c, -, he⟩ := (stepEffect_of_step hstep).registers
  · exact hwreset_parametersLegal _
  · exact parametersLegal_congr h hs
  · exact he.keeps_parametersLegal (s := s.popRequest) hs

/-- Settles O55: every invariant at the reset state. -/
theorem resetStateMeetsInvariants : Obligations.ResetStateMeetsInvariants := by
  obtain ⟨hprep, hfin⟩ := parametersLegal_reset
  exact ⟨memoryWf_reset, phasesOk_reset, envelopesOk_reset, voiceOk_reset, hprep, hfin,
    iff_of_true rfl ⟨rfl, rfl, rfl, rfl⟩⟩

end Sys2Proof
end

section
/-! PROOFS. The bus (R81 to R84), the reset values (R50), and DRead and DWrite (R90). Settles O9, O10, O11, O12. -/

namespace Sys2Proof

open Sys2Proof.Machine Sys2Proof.Claims

/-! The address map (R81). -/

theorem isOutbuf_iff_outbufAddr (a : Nat) : isOutbuf a = true ↔ outbufAddr a := isOutbuf_iff a

theorem stageKind_isSome_of_stageField {a : Nat} (h : stageField a) : (stageKind a).isSome = true := by
  unfold stageField at h
  obtain ⟨e, o, rfl⟩ | ⟨k, o, rfl⟩ | rfl | ⟨i, o, rfl⟩ | ⟨j, o, rfl⟩ | ⟨i, j, rfl⟩ := h
  · revert e o; decide
  · revert k o; decide
  · decide
  · revert i o; decide
  · revert j o; decide
  · revert i j; decide

theorem stageField_of_floatField {a : Nat} (h : floatField a) : stageField a := by
  unfold floatField at h
  obtain ⟨e, o, rfl⟩ | ⟨k, rfl | rfl | rfl⟩ | rfl | ⟨i, o, rfl⟩ | ⟨j, rfl⟩ | ⟨i, j, rfl⟩ := h
  · exact .inl ⟨e, ⟨o.val, by omega⟩, rfl⟩
  · exact .inr (.inl ⟨k, 0, rfl⟩)
  · exact .inr (.inl ⟨k, 1, by simp; omega⟩)
  · exact .inr (.inl ⟨k, 5, by simp; omega⟩)
  · exact .inr (.inr (.inl rfl))
  · exact .inr (.inr (.inr (.inl ⟨i, ⟨o.val + 1, by omega⟩, by simp; omega⟩)))
  · exact .inr (.inr (.inr (.inr (.inl ⟨j, 2, by simp; omega⟩))))
  · exact .inr (.inr (.inr (.inr (.inr ⟨i, j, rfl⟩))))

theorem stageField_of_kindField {kind : FieldKind} {a : Nat} (h : kindField kind a) : stageField a := by
  cases kind with
  | float => exact stageField_of_floatField h
  | flag =>
    obtain ⟨e, rfl⟩ | ⟨k, rfl⟩ := h
    · exact .inl ⟨e, 4, by simp; omega⟩
    · exact .inr (.inl ⟨k, 3, by simp; omega⟩)
  | mode => obtain ⟨i, rfl⟩ := h; exact .inr (.inr (.inr (.inl ⟨i, 0, rfl⟩)))
  | wave => obtain ⟨k, rfl⟩ := h; exact .inr (.inl ⟨k, 2, by simp; omega⟩)
  | src => obtain ⟨j, rfl⟩ := h; exact .inr (.inr (.inr (.inr (.inl ⟨j, 0, rfl⟩))))
  | envsrc => obtain ⟨i, rfl⟩ := h; exact .inr (.inr (.inr (.inl ⟨i, 7, by simp; omega⟩)))
  | dest =>
    obtain ⟨k, rfl⟩ | ⟨j, rfl⟩ := h
    · exact .inr (.inl ⟨k, 4, by simp; omega⟩)
    · exact .inr (.inr (.inr (.inr (.inl ⟨j, 1, by simp; omega⟩))))

/-- The fields of the layout table are the words with a kind. -/
theorem stageField_iff (a : Nat) : stageField a ↔ ∃ kind, stageKind a = some kind :=
  ⟨fun h => Option.isSome_iff_exists.mp (stageKind_isSome_of_stageField h),
    fun ⟨_, h⟩ => stageField_of_kindField (kindField_of_stageKind h)⟩

theorem stageField_bounds {a : Nat} (h : stageField a) : 0x100 ≤ a ∧ a ≤ 0x1A3 := by
  obtain ⟨kind, hk⟩ := (stageField_iff a).mp h
  exact stageKind_bounds hk

theorem stageRead_of_field {a : Nat} (h : stageField a) (s : State) : stageRead a s = stageWord s a := by
  obtain ⟨kind, hk⟩ := (stageField_iff a).mp h
  exact stageRead_of_kind hk s

theorem stageRead_of_not_field {a : Nat} (h : ¬stageField a) (s : State) : stageRead a s = 0 := by
  have hk : stageKind a = none := by
    by_contra hk
    exact h ((stageField_iff a).mpr (Option.ne_none_iff_exists'.mp hk))
  rw [stageRead, hk]

/-! Reads. -/

/-- Past the registers an address is a word of OUTBUF or of the STAGE bank. -/
theorem busValue_of_memory {a : Nat} (h : ¬(1 ≤ a ∧ a ≤ 0x00A)) (s : State) :
    busValue a s = if isOutbuf a then outbufRead a s else stageRead a s := by
  unfold busValue
  split
  case h_11 => rfl
  all_goals exact absurd (by decide) h

theorem busValue_of_outbufAddr {a : Nat} (h : outbufAddr a) (s : State) : busValue a s = outbufRead a s := by
  have hb := h
  unfold outbufAddr at hb
  rw [busValue_of_memory (by omega), if_pos ((isOutbuf_iff_outbufAddr a).mpr h)]

theorem busValue_of_not_outbufAddr {a : Nat} (h : ¬(1 ≤ a ∧ a ≤ 0x00A)) (ho : ¬outbufAddr a) (s : State) :
    busValue a s = stageRead a s := by
  rw [busValue_of_memory h, if_neg (by rwa [isOutbuf_iff_outbufAddr])]

theorem busValue_of_stageField {a : Nat} (h : stageField a) (s : State) : busValue a s = stageWord s a := by
  have hb := stageField_bounds h
  rw [busValue_of_not_outbufAddr (by omega) (by unfold outbufAddr; omega), stageRead_of_field h]

theorem stage_getElem?_of_field {a : Nat} (h : stageField a) (s : State) : s.stage[a - 0x100]? = some (stageWord s a) := by
  have hb := stageField_bounds h
  have hlt : a - 0x100 < 164 := by omega
  rw [stageWord, Vector.getElem?_eq_getElem hlt, Option.getD_some]

/-- STATUS bit by bit (R23). -/
theorem statusWord_bits (s : State) :
    (statusWord s).getLsbD 0 = s.prepared ∧
    ((statusWord s).extractLsb' 1 2).toNat = (match s.vstate with | .idle => 0 | .active => 1 | .releasing => 2) ∧
    (statusWord s).getLsbD 3 = decide (s.vstate ≠ .idle) ∧
    (statusWord s).getLsbD 4 = decide (s.env[0].stage ≠ .idle) ∧
    (statusWord s).getLsbD 5 = decide (s.env[1].stage ≠ .idle) ∧
    (statusWord s).getLsbD 6 = s.done ∧ (statusWord s).getLsbD 7 = false ∧ (statusWord s).getLsbD 8 = s.seqErr ∧
    (statusWord s).getLsbD 9 = s.cfgErr ∧ (statusWord s).getLsbD 10 = s.argErr ∧
    (statusWord s).getLsbD 11 = s.cmdErr ∧ (statusWord s).extractLsb' 12 20 = 0 := by
  have bit (i : Nat) : (statusWord s).getLsbD i =
      (0#20 ++ BitVec.ofBool s.cmdErr ++ BitVec.ofBool s.argErr ++ BitVec.ofBool s.cfgErr ++ BitVec.ofBool s.seqErr
        ++ 0#1 ++ BitVec.ofBool s.done ++ BitVec.ofBool (envActive 1 s) ++ BitVec.ofBool (envActive 0 s)
        ++ BitVec.ofBool (voiceActive s) ++ vstateCode s.vstate ++ BitVec.ofBool s.prepared).getLsbD i := rfl
  have hcode : (statusWord s).extractLsb' 1 2 = vstateCode s.vstate := by
    apply BitVec.eq_of_getLsbD_eq
    intro i hi
    rw [BitVec.getLsbD_extractLsb', bit]
    interval_cases i <;> simp only [BitVec.getLsbD_append] <;> simp
  have hzero : (statusWord s).extractLsb' 12 20 = 0 := by
    apply BitVec.eq_of_getLsbD_eq
    intro i hi
    rw [BitVec.getLsbD_extractLsb', bit]
    interval_cases i <;> simp only [BitVec.getLsbD_append] <;> simp
  refine ⟨?_, ?vstate, ?_, ?_, ?_, ?_, ?_, ?_, ?_, ?_, ?_, hzero⟩
  case vstate => rw [hcode]; cases s.vstate <;> rfl
  all_goals
    rw [bit]
    simp only [BitVec.getLsbD_append]
    simp [envActive, voiceActive, bne, Bool.beq_eq_decide_eq]

/-- Settles O10. -/
theorem busReadReturnsMapWord : Obligations.BusReadReturnsMapWord := by
  intro s a
  refine ⟨fun h => exec_busRead_fault (decide_eq_false (by omega)) s,
    fun h => ⟨_, exec_busRead_of_ok (decide_eq_true h) s, rfl, ?_⟩⟩
  refine ⟨?arg0, ?arg1, ?arg2, ?status, ?errinfo, ?result, ?id, ?fs, ?size, ?note, ?stage, ?outbuf, ?other⟩
  case stage => exact fun hf => by rw [busValue_of_stageField hf]; exact stage_getElem?_of_field hf s
  case outbuf => exact fun ho => busValue_of_outbufAddr ho s
  case other => exact fun hreg hf ho => by rw [busValue_of_not_outbufAddr hreg ho, stageRead_of_not_field hf]
  case status => rintro rfl; exact statusWord_bits s
  case size =>
    rintro rfl
    show (s.blockSize.zeroExtend 32).toNat = _
    rw [BitVec.zeroExtend, BitVec.toNat_setWidth]
    exact Nat.mod_eq_of_lt (lt_trans (blockCount_lt s.blockSize) (by norm_num))
  all_goals rintro rfl; rfl

/-! Writes. -/

theorem busValue_arg0 {b : Nat} (h : b ≠ 0x001) (v : Word) (s : State) :
    busValue b { s with arg0 := v } = busValue b s := by
  unfold busValue
  split
  case h_1 => exact absurd rfl h
  all_goals rfl

theorem busValue_arg1 {b : Nat} (h : b ≠ 0x002) (v : Word) (s : State) :
    busValue b { s with arg1 := v } = busValue b s := by
  unfold busValue
  split
  case h_2 => exact absurd rfl h
  all_goals rfl

theorem busValue_arg2 {b : Nat} (h : b ≠ 0x003) (v : Word) (s : State) :
    busValue b { s with arg2 := v } = busValue b s := by
  unfold busValue
  split
  case h_3 => exact absurd rfl h
  all_goals rfl

/-- A write into OUTBUF is seen at its address only. -/
theorem busValue_outbufWrite {a b : Nat} (h : b ≠ a) (v : Word) (s : State) :
    busValue b (outbufWrite a v s) = busValue b s := by
  have hread := outbufRead_write a b v s
  rw [if_neg (by tauto)] at hread
  rw [outbufWrite_frame] at hread ⊢
  unfold busValue
  split
  case h_11 => rw [hread]; rfl
  all_goals rfl

theorem stageWrite_of_field {a : Nat} (h : stageField a) (v : Word) (s : State) :
    stageWrite a v s = { s with stage := s.stage.setIfInBounds (a - 0x100) v } := by
  obtain ⟨kind, hk⟩ := (stageField_iff a).mp h
  rw [stageWrite, hk]
  rfl

theorem stageWrite_of_not_field {a : Nat} (h : ¬stageField a) (v : Word) (s : State) : stageWrite a v s = s := by
  have hk : stageKind a = none := by
    by_contra hk
    exact h ((stageField_iff a).mpr (Option.ne_none_iff_exists'.mp hk))
  rw [stageWrite, hk]

/-- A write of a STAGE word is read at its address only. -/
theorem stageRead_setStage {a : Nat} (h : stageField a) (b : Nat) (v : Word) (s : State) :
    stageRead b { s with stage := s.stage.setIfInBounds (a - 0x100) v } = if b = a then v else stageRead b s := by
  have ha := stageField_bounds h
  by_cases hb : stageField b
  · have hb' := stageField_bounds hb
    rw [stageRead_of_field hb, stageRead_of_field hb, stageWord, stageWord, Vector.getElem?_setIfInBounds]
    by_cases hab : b = a
    · rw [if_pos (by omega), if_pos hab, if_pos (by omega), Option.getD_some]
    · rw [if_neg (by omega), if_neg hab]
  · rw [stageRead_of_not_field hb, stageRead_of_not_field hb, if_neg (by rintro rfl; exact hb h)]

theorem busValue_setStage {a b : Nat} (h : stageField a) (hb : b ≠ a) (v : Word) (s : State) :
    busValue b { s with stage := s.stage.setIfInBounds (a - 0x100) v } = busValue b s := by
  have hread := stageRead_setStage h b v s
  rw [if_neg hb] at hread
  unfold busValue
  split
  case h_11 => rw [hread]; rfl
  all_goals rfl

/-- What a bus write stores, by the access column of the map (R81, R83). -/
theorem busStore_cases (a : Nat) (v : Word) (s : State) :
    (a = 0x001 ∧ busStore a v s = { s with arg0 := v }) ∨ (a = 0x002 ∧ busStore a v s = { s with arg1 := v }) ∨
    (a = 0x003 ∧ busStore a v s = { s with arg2 := v }) ∨
    (outbufAddr a ∧ busStore a v s = outbufWrite a v s) ∨
    (stageField a ∧ ¬outbufAddr a ∧ busStore a v s = { s with stage := s.stage.setIfInBounds (a - 0x100) v }) ∨
    (¬writable a ∧ busStore a v s = s) := by
  by_cases h1 : a = 0x001
  · subst h1; exact .inl ⟨rfl, rfl⟩
  by_cases h2 : a = 0x002
  · subst h2; exact .inr (.inl ⟨rfl, rfl⟩)
  by_cases h3 : a = 0x003
  · subst h3; exact .inr (.inr (.inl ⟨rfl, rfl⟩))
  right; right; right
  have hstore : busStore a v s = if isOutbuf a then outbufWrite a v s else stageWrite a v s := by
    unfold busStore
    split
    · exact absurd rfl h1
    · exact absurd rfl h2
    · exact absurd rfl h3
    · rfl
  by_cases ho : outbufAddr a
  · rw [if_pos ((isOutbuf_iff_outbufAddr a).mpr ho)] at hstore
    exact .inl ⟨ho, hstore⟩
  rw [if_neg (by rwa [isOutbuf_iff_outbufAddr])] at hstore
  by_cases hf : stageField a
  · rw [stageWrite_of_field hf] at hstore
    exact .inr (.inl ⟨hf, ho, hstore⟩)
  · rw [stageWrite_of_not_field hf] at hstore
    refine .inr (.inr ⟨?_, hstore⟩)
    rintro (h | h | h | h | h) <;> contradiction

theorem busStore_busValue_ne {a b : Nat} (h : b ≠ a ∨ ¬writable a) (v : Word) (s : State) :
    busValue b (busStore a v s) = busValue b s := by
  have hb (hw : writable a) : b ≠ a := h.resolve_right (not_not.mpr hw)
  obtain ⟨rfl, hs⟩ | ⟨rfl, hs⟩ | ⟨rfl, hs⟩ | ⟨ho, hs⟩ | ⟨hf, -, hs⟩ | ⟨-, hs⟩ := busStore_cases a v s
  all_goals rw [hs]
  · exact busValue_arg0 (hb (.inl rfl)) v s
  · exact busValue_arg1 (hb (.inr (.inl rfl))) v s
  · exact busValue_arg2 (hb (.inr (.inr (.inl rfl)))) v s
  · exact busValue_outbufWrite (hb (.inr (.inr (.inr (.inr ho))))) v s
  · exact busValue_setStage hf (hb (.inr (.inr (.inr (.inl hf))))) v s

theorem busStore_busValue_self {a : Nat} (h : writable a) (v : Word) (s : State) :
    busValue a (busStore a v s) = v := by
  obtain ⟨rfl, hs⟩ | ⟨rfl, hs⟩ | ⟨rfl, hs⟩ | ⟨ho, hs⟩ | ⟨hf, ho, hs⟩ | ⟨hw, -⟩ := busStore_cases a v s
  case inr.inr.inr.inr.inr => exact absurd h hw
  all_goals rw [hs]
  case inl | inr.inl | inr.inr.inl => rfl
  case inr.inr.inr.inl =>
    rw [busValue_of_outbufAddr ho, outbufRead_write, if_pos ⟨rfl, (isOutbuf_iff_outbufAddr a).mpr ho⟩]
  case inr.inr.inr.inr.inl =>
    have hb := stageField_bounds hf
    rw [busValue_of_not_outbufAddr (by omega) ho, stageRead_setStage hf, if_pos rfl]

theorem delayRead_congr {s t : State} (h : t.op = s.op) (i : OpIdx) (k : DelayIdx) :
    delayRead i k t = delayRead i k s := by
  rw [delayRead, delayRead, h]

theorem outbufRead_congr {s t : State} (h : t.outbuf = s.outbuf) (he : t.epoch = s.epoch) (a : Nat) :
    outbufRead a t = outbufRead a s := by
  rw [outbufRead, outbufRead, h, he]

theorem busStore_op (a : Nat) (v : Word) (s : State) : (busStore a v s).op = s.op := by
  rw [busStore_frame]

/-- Settles O11. -/
theorem busWriteStoresOneWord : Obligations.BusWriteStoresOneWord := by
  intro s a v
  refine ⟨fun h => exec_busWrite_fault (decide_eq_false (by omega)) v s, fun hcmd h => ?_⟩
  exact ⟨_, exec_busWrite_of_ok (decide_eq_true h) hcmd v s, busStore_frame a v s,
    fun hw => busStore_busValue_self hw v s, fun b hb => busStore_busValue_ne hb v s,
    delayRead_congr (busStore_op a v s)⟩

/-! The reset values (R50, R410). -/

/-- The reset values do not depend on the model's own counters and queues. -/
theorem resetValues_reset (requests : List Request) (rdata : Word) (draws epoch : Nat) :
    ResetValues
      { State.reset with requests := requests, rdata := rdata, draws := draws, epoch := epoch } := by
  refine ⟨⟨rfl, rfl, rfl⟩, ⟨rfl, rfl, rfl, rfl, rfl, rfl⟩, ⟨rfl, rfl, rfl, rfl, rfl⟩, ⟨rfl, rfl, rfl⟩,
    fun a ha => ?stage, fun i => ?op, fun e => ?env, fun k => ?lph, ?status, rfl⟩
  case stage =>
    have hb := stageField_bounds ha
    rw [busValue_of_stageField ha, stageWord]
    show (Vector.replicate 164 0)[a - 0x100]?.getD 0 = _
    rw [Vector.getElem?_replicate]
    split <;> rfl
  case op => fin_cases i <;> exact ⟨rfl, rfl, rfl, rfl, rfl⟩
  case env => fin_cases e <;> rfl
  case lph => fin_cases k <;> rfl
  case status => show statusWord State.reset = 0; decide

/-- Settles O9. -/
theorem resetLeavesResetValues : Obligations.ResetLeavesResetValues :=
  ⟨resetValues_reset [] 0 0 0, fun s =>
    ⟨hwresetStep s, rfl, resetValues_reset s.requests s.rdata s.draws (s.epoch + 1), rfl, rfl, rfl⟩⟩

/-! DRead and DWrite (R90). -/

theorem delayWrite_op_self (i : OpIdx) (k : DelayIdx) (v : F32) (s : State) :
    (delayWrite i k v s).op[i] = writeDelay k v s.op[i] := by
  rw [delayWrite_eq, setOp_op, if_pos rfl]

theorem delayWrite_op_ne {i j : OpIdx} (h : j ≠ i) (k : DelayIdx) (v : F32) (s : State) :
    (delayWrite i k v s).op[j] = s.op[j] := by
  rw [delayWrite_eq, setOp_op, if_neg h.symm]

/-- Settles O12. -/
theorem delayWordReadAfterWrite : Obligations.DelayWordReadAfterWrite := by
  intro s i k
  refine ⟨rfl, fun hwf v => ⟨delayWrite i k v s, rfl, ?self, ⟨fun _ => rfl, fun j l h => delayRead_write_ne h v s⟩,
    delayWrite_memoryWf i k v hwf, rfl, ?operator, fun j hj => delayWrite_op_ne hj k v s⟩⟩
  case self => rw [delayRead_write i i k k v hwf, if_pos ⟨rfl, rfl⟩]
  case operator => rw [delayWrite_op_self]; rfl

end Sys2Proof
end

section
/-! PROOFS. The commands' equations (46_commands.md), what each command's own checks refuse (R384, R386, R388, R390), and
the statements that follow from the closed forms of STARTNOTE, STOPNOTE and PREPARE. -/

namespace Sys2Proof

open Sys2Proof.Machine Sys2Proof.Claims

/-! One equation for each outcome of a command. -/

theorem rateBad_iff (d : F64) : rateBad d = true ↔ isNaN64 d = true ∨ flt64 d 0x40E5888000000000#64 = true
    ∨ flt64 0x4107700000000000#64 d = true := by
  show (isNaN64 d || flt64 d 0x40E5888000000000#64 || flt64 0x4107700000000000#64 d) = true ↔ _
  rw [Bool.or_eq_true, Bool.or_eq_true, or_assoc]

theorem rateBad_eq_false {d : F64} (hnan : isNaN64 d = false) (hmin : flt64 d 0x40E5888000000000#64 = false)
    (hmax : flt64 0x4107700000000000#64 d = false) : rateBad d = false := by
  rw [← Bool.not_eq_true, rateBad_iff]
  simp [hnan, hmin, hmax]

theorem blockSizeBad_iff (bs : Nat) : blockSizeBad bs = true ↔ bs < 1 ∨ 4096 < bs := decide_eq_true_iff

theorem exec_prepare_of_bad_rate {s : State} (h : rateBad (rateOperand s) = true) :
    exec .prepare s = .next (takeRefusal .argErr causeRate 0 s) := if_pos h

theorem exec_prepare_of_bad_size {s : State} (hrate : rateBad (rateOperand s) = false)
    (hsize : blockSizeBad (blockSizeOperand s) = true) :
    exec .prepare s = .next (takeRefusal .argErr causeBlockSize (info24 s.arg2) s) :=
  (if_neg (by simp [hrate])).trans (if_pos hsize)

/-- The state an accepted PREPARE leaves (R341). -/
def preparedState (s : State) : State :=
  prepareVoice { s with fs := f64ToF32 (s.nan 0) (rateOperand s),
                        blockSize := BitVec.ofNat Config.params.blockBits (blockSizeOperand s) }

theorem exec_prepare_of_legal {s : State} (hrate : rateBad (rateOperand s) = false)
    (hsize : blockSizeBad (blockSizeOperand s) = false) : exec .prepare s = .next (preparedState s) :=
  (if_neg (by simp [hrate])).trans (if_neg (by simp [hsize]))

theorem exec_startnote_of_prepared {s : State} (h : s.prepared = true) (note : BitVec 7) :
    exec (.startnote note) s = .next (startVoice note s) := if_pos h

theorem exec_startnote_of_unprepared {s : State} (h : s.prepared = false) (note : BitVec 7) :
    exec (.startnote note) s = .next (takeRefusal .seqErr causeNotPrepared 0x03 s) := if_neg (by simp [h])

theorem exec_stopnote_tail_of_sounding {s : State} (h : s.vstate ≠ .idle) :
    exec (.stopnote true) s = .next (releaseVoice s) := if_pos ((voiceActive_iff s).mpr h)

theorem exec_stopnote_tail_of_idle {s : State} (h : s.vstate = .idle) : exec (.stopnote true) s = .next s :=
  if_neg (mt (voiceActive_iff s).mp (not_not.mpr h))

theorem exec_stopnote_cut (s : State) : exec (.stopnote false) s = .next (cutVoice s) := rfl

theorem exec_render_of_unprepared {s : State} (h : s.prepared = false) :
    exec .render s = .next (takeRefusal .seqErr causeNotPrepared 0x06 s) := if_pos (by simp [h])

theorem exec_render_of_range {s : State} (h : s.prepared = true) (hrange : s.blockSize.toNat < s.arg0.toNat + s.arg1.toNat) :
    exec .render s = .next (takeRefusal .argErr causeRange (info24 s.arg0) s) :=
  (if_neg (by simp [h])).trans (if_pos hrange)

theorem exec_render_of_legal {s : State} (h : s.prepared = true) (hrange : s.arg0.toNat + s.arg1.toNat ≤ s.blockSize.toNat) :
    exec .render s = .next (setSeq Seq.idle (renderFrames s.arg1.toNat 0 s)) :=
  (if_neg (by simp [h])).trans (if_neg (not_lt.mpr hrange))

theorem exec_ctrl_wheel_of_finite {s : State} (h : isFinite s.arg0 = true) :
    exec (.ctrl 1) s = .next { s with mw := s.arg0 } := if_pos h

theorem exec_ctrl_wheel_of_not_finite {s : State} (h : isFinite s.arg0 = false) :
    exec (.ctrl 1) s = .next (takeRefusal .argErr causeController 1 s) := if_neg (by simp [controlOperand, h])

theorem exec_ctrl_of_ne {cc : BitVec 7} (h : cc ≠ 1) (s : State) : exec (.ctrl cc) s = .next s := if_neg h

/-! Refusals (R384). -/

theorem refuses_of_exec {i : Instr} {s : State} {flag : ErrFlag} {cause : BitVec 8} {info : BitVec 24}
    (h : exec i s = .next (takeRefusal flag cause info s)) :
    ∃ t, exec i s = .next t ∧ Refused flag cause info s t ∧ memoryKept s t :=
  ⟨_, h, takeRefusal_refused flag cause info s, takeRefusal_memoryKept flag cause info s⟩

/-- Settles O8. -/
theorem refusalsSetFlagAndFirstCause : Obligations.RefusalsSetFlagAndFirstCause := by
  intro s
  refine ⟨fun flag cause info => refuses_of_exec rfl, fun hbad => ?rate, fun hnan hmin hmax hsize => ?size,
    fun hprep note => refuses_of_exec (exec_startnote_of_unprepared hprep note),
    fun hprep => refuses_of_exec (exec_render_of_unprepared hprep),
    fun hprep hrange => refuses_of_exec (exec_render_of_range hprep hrange),
    fun hfin => refuses_of_exec (exec_ctrl_wheel_of_not_finite hfin)⟩
  case rate => exact refuses_of_exec (exec_prepare_of_bad_rate ((rateBad_iff _).mpr hbad))
  case size =>
    exact refuses_of_exec (exec_prepare_of_bad_size (rateBad_eq_false hnan hmin hmax) ((blockSizeBad_iff _).mpr hsize))

/-- Settles O43. -/
theorem controllerOneWritesModWheel : Obligations.ControllerOneWritesModWheel := by
  intro s cc
  refine ⟨fun hcc hfin => ?_, fun hcc => exec_ctrl_of_ne (fun h => hcc (by rw [h]; rfl)) s⟩
  obtain rfl : cc = 1 := BitVec.eq_of_toNat_eq hcc
  exact exec_ctrl_wheel_of_finite hfin

/-! PREPARE twice (R89). -/

theorem setErrFlag_errinfo (flag : ErrFlag) (s : State) : (setErrFlag flag s).errinfo = s.errinfo := by cases flag <;> rfl

theorem takeRefusal_of_errinfo {s : State} (h : s.errinfo ≠ 0) (flag : ErrFlag) (cause : BitVec 8) (info : BitVec 24) :
    takeRefusal flag cause info s = setErrFlag flag s := by
  unfold takeRefusal
  simp only
  rw [if_neg (by rw [setErrFlag_errinfo]; exact h)]

theorem takeRefusal_twice (flag : ErrFlag) (cause : BitVec 8) (info : BitVec 24) (s : State) (h : info ++ cause ≠ 0) :
    takeRefusal flag cause info (takeRefusal flag cause info s) = takeRefusal flag cause info s := by
  have herr : (takeRefusal flag cause info s).errinfo ≠ 0 := by
    rw [takeRefusal_errinfo]
    split
    · exact h
    · assumption
  rw [takeRefusal_of_errinfo herr]
  cases flag <;> rfl

theorem takeRefusal_operands (flag : ErrFlag) (cause : BitVec 8) (info : BitVec 24) (s : State) :
    rateOperand (takeRefusal flag cause info s) = rateOperand s ∧ (takeRefusal flag cause info s).arg2 = s.arg2 := by
  cases flag <;> exact ⟨rfl, rfl⟩

theorem preparedState_operands (s : State) :
    rateOperand (preparedState s) = rateOperand s ∧ (preparedState s).arg2 = s.arg2 := by
  rw [preparedState, prepareVoice_eq]
  exact ⟨rfl, rfl⟩

theorem preparedState_twice (s : State) : preparedState (preparedState s) = preparedState s := by
  unfold preparedState
  simp only [prepareVoice_eq, getElem_ofFn_fin]
  rfl

/-- Settles O38: a refusal leaves the operands, and an accepted PREPARE leaves nothing for a second one to change. -/
theorem prepareIsIdempotent : Obligations.PrepareIsIdempotent := by
  intro s t h
  rcases hrate : rateBad (rateOperand s) with _ | _
  · rcases hsize : blockSizeBad (blockSizeOperand s) with _ | _
    · obtain rfl := Host.Outcome.next.inj ((exec_prepare_of_legal hrate hsize).symm.trans h)
      obtain ⟨hr, h2⟩ := preparedState_operands s
      rw [exec_prepare_of_legal (by rw [hr, hrate]) (by rw [blockSizeOperand, h2]; exact hsize), preparedState_twice]
    · obtain rfl := Host.Outcome.next.inj ((exec_prepare_of_bad_size hrate hsize).symm.trans h)
      obtain ⟨hr, h2⟩ := takeRefusal_operands .argErr causeBlockSize (info24 s.arg2) s
      rw [exec_prepare_of_bad_size (by rw [hr, hrate]) (by rw [blockSizeOperand, h2]; exact hsize), h2,
        takeRefusal_twice _ _ _ _ (append_cause_ne_zero rfl _)]
  · obtain rfl := Host.Outcome.next.inj ((exec_prepare_of_bad_rate hrate).symm.trans h)
    obtain ⟨hr, -⟩ := takeRefusal_operands .argErr causeRate 0 s
    rw [exec_prepare_of_bad_rate (by rw [hr, hrate]), takeRefusal_twice _ _ _ _ (append_cause_ne_zero rfl _)]

end Sys2Proof
end

section
/-! PROOFS. Envelopes and the voice commands: ENV.LOAD and ENV.STEP (R252 to R258), COMPLETE (R320), STARTNOTE (R343),
STOPNOTE (R344), and the retrigger property (R263). -/

namespace Sys2Proof

open Sys2Proof.Machine Sys2Proof.Claims

/-! ENV.LOAD (R252). -/

theorem loadEnvelope_eq_loaded (nan : Nat → F32) (fs : F32) (p : EnvParams) (x : Envelope) :
    loadEnvelope nan fs p x = loaded nan fs p x := rfl

/-- Settles O19. -/
theorem envelopeLoadLatches : Obligations.EnvelopeLoadLatches := fun s e =>
  ⟨s.nan, envLoadStep e s, nan_NaNs s, rfl, rfl, drew_setEnv_memoryKept 6 e _ s⟩

/-! ENV.STEP (R254 to R258): the machine's rule of each stage is the spec's. -/

theorem attackNext_eq (nan : F32) (x : Envelope) : attackNext nan x =
    if flt (fadd nan x.level x.aInc) 0x3F800000#32 = true then { x with level := fadd nan x.level x.aInc }
    else { x with level := 0x3F800000#32, stage := .decay } := rfl

theorem releaseNext_eq (nan : F32) (x : Envelope) : releaseNext nan x =
    if fgt (fsub nan x.level x.rDec) 0x00000000#32 = true then { x with level := fsub nan x.level x.rDec }
    else { x with level := 0x00000000#32, stage := .idle } := rfl

theorem putEnv_becomes (e : EnvIdx) (x : Envelope) (s : State) : EnvelopeBecomes e x s (putEnv e x s) :=
  ⟨rfl, fun _ => rfl, fun _ _ => rfl⟩

theorem drew_putEnv_becomes (n : Nat) (e : EnvIdx) (x : Envelope) (s : State) :
    EnvelopeBecomes e x s (drew n (putEnv e x s)) := ⟨rfl, fun _ => rfl, fun _ _ => rfl⟩

theorem exec_envStep (st : EStage) (e : EnvIdx) (s : State) : exec (envStepInstr st e) s =
    .next (whenStage st e (match st with
      | .idle => idleStep e
      | .attack => attackStep e
      | .decay => decayStep e
      | .sustain => sustainStep e
      | .release => releaseStep e) s) := by
  cases st <;> rfl

theorem whenStage_of_stage {st : EStage} {e : EnvIdx} {s : State} (h : s.env[e].stage = st) (f : State → State) :
    whenStage st e f s = f s := if_pos h

theorem whenStage_of_ne {st : EStage} {e : EnvIdx} {s : State} (h : s.env[e].stage ≠ st) (f : State → State) :
    whenStage st e f s = s := if_neg h

/-- The row of the stage an envelope is in runs that stage's rule. -/
theorem exec_envStep_of_stage {st : EStage} {e : EnvIdx} {s : State} (h : s.env[e].stage = st) :
    exec (envStepInstr st e) s = .next (envStep e s) := by
  rw [exec_envStep, whenStage_of_stage h, envStep]
  subst h
  split <;> simp only [*]

/-- Settles O21. -/
theorem envelopeStepByStage : Obligations.EnvelopeStepByStage := by
  intro s e
  refine ⟨fun h => ?idle, fun h => ?attack, fun h => ?decay, fun h => ?sustain, fun h => ?release, fun st h => ?other⟩
  case idle => exact ⟨_, congrArg Host.Outcome.next (whenStage_of_stage h _), putEnv_becomes e _ s⟩
  case attack =>
    exact ⟨s.nan, attackStep e s, nan_NaNs s, congrArg Host.Outcome.next (whenStage_of_stage h _),
      drew_putEnv_becomes 1 e (attackNext (s.nan 0) s.env[e]) s⟩
  case decay =>
    exact ⟨s.nan, decayStep e s, nan_NaNs s, congrArg Host.Outcome.next (whenStage_of_stage h _),
      drew_putEnv_becomes 1 e (decayNext (s.nan 0) s.env[e]) s⟩
  case sustain => exact ⟨_, congrArg Host.Outcome.next (whenStage_of_stage h _), putEnv_becomes e _ s⟩
  case release =>
    exact ⟨s.nan, releaseStep e s, nan_NaNs s, congrArg Host.Outcome.next (whenStage_of_stage h _),
      drew_putEnv_becomes 1 e (releaseNext (s.nan 0) s.env[e]) s⟩
  case other => rw [exec_envStep, whenStage_of_ne h]

/-! COMPLETE (R320). -/

/-- Settles O34. -/
theorem completionNeedsBothEnvelopesIdle : Obligations.CompletionNeedsBothEnvelopesIdle := by
  intro s
  refine ⟨fun h0 h1 => ?_, fun h => ?_⟩
  · exact congrArg Host.Outcome.next (completeStep_of_idle ((bothEnvIdle_iff s).mpr ⟨h0, h1⟩))
  · refine congrArg Host.Outcome.next (completeStep_of_not_idle ?_)
    rw [← Bool.not_eq_true, bothEnvIdle_iff, not_and_or]
    exact h

/-! STARTNOTE (R343). -/

theorem startVoice_env (note : BitVec 7) (s : State) (e : EnvIdx) : (startVoice note s).env[e] =
    attackingEnv (loaded (s.nanFrom (6 * e.val)) s.fs s.act.env[e] s.env[e]) := by
  rw [startVoice_eq, getElem_ofFn_fin, loadEnvelope_eq_loaded]

theorem startVoice_lph (note : BitVec 7) (s : State) (k : LfoIdx) : (startVoice note s).lph[k] =
    syncedPhase s.act.lfo[k].sync s.lph[k] := by
  rw [startVoice_eq, getElem_ofFn_fin]

theorem startVoice_op (note : BitVec 7) (s : State) (i : OpIdx) : (startVoice note s).op[i] = Operator.zero := by
  rw [startVoice_eq, getElem_replicate_fin]

theorem startVoice_opout (note : BitVec 7) (s : State) (i : OpIdx) : (startVoice note s).opout[i] = 0x00000000#32 := by
  rw [startVoice_eq, getElem_replicate_fin]
  rfl

/-- The registers STARTNOTE leaves as they are. -/
theorem startVoice_frame (note : BitVec 7) (s : State) : startVoice note s =
    { s with noteHz := noteHzOf note, env := (startVoice note s).env, lph := (startVoice note s).lph,
             op := (startVoice note s).op, opout := (startVoice note s).opout, vstate := .active, done := false,
             draws := s.draws + 12 } := by
  rw [startVoice_eq]

/-- Settles O41. -/
theorem startnoteStartsTheNote : Obligations.StartnoteStartsTheNote := by
  intro s note hprep
  refine ⟨fun e => s.nanFrom (6 * e.val), startVoice note s, noteHzStep note s, fun e => nanFrom_NaNs _ s,
    exec_startnote_of_prepared hprep note, rfl, ?noteHz, fun e => startVoice_env note s e,
    fun k => startVoice_lph note s k, fun i => ⟨operatorCleared_of_op_eq_zero (startVoice_op note s i),
      startVoice_opout note s i⟩, ?vstate, ?done, ?frame, fun a => outbufRead_congr ?outbuf ?epoch a⟩
  all_goals rw [startVoice_frame]
  case noteHz => rfl

/-! STOPNOTE (R344). -/

/-- Settles O42. -/
theorem stopnoteReleasesOrCuts : Obligations.StopnoteReleasesOrCuts := by
  intro s
  refine ⟨fun h => ⟨fun e _ => s.nan e.val, _, fun e _ => nan_NaNs s e.val, exec_stopnote_tail_of_sounding h, ?_⟩,
    exec_stopnote_tail_of_idle, _, exec_stopnote_cut s, ?_⟩
  · rw [releaseVoice_eq]
    exact ⟨fun e => getElem_ofFn_fin _ e, rfl, rfl, fun _ => rfl, fun _ _ => rfl⟩
  · rw [cutVoice_eq]
    exact ⟨fun e => getElem_ofFn_fin _ e, rfl, rfl, fun _ => rfl, fun _ _ => rfl⟩

/-! The retrigger property (R263). -/

theorem drew_putEnv_env (n : Nat) (e : EnvIdx) (x : Envelope) (s : State) : (drew n (putEnv e x s)).env[e] = x :=
  setEnv_env_self e x s

/-- Settles O47: STARTNOTE leaves envelope e in attack at the level the retrigger flag decides. -/
theorem retriggerDecidesFirstLevel : Obligations.RetriggerDecidesFirstLevel := by
  intro s note e hprep
  have hstart := startVoice_env note s e
  have hstage : (startVoice note s).env[e].stage = .attack := by rw [hstart]; rfl
  have hlevel : (startVoice note s).env[e].level = if s.act.env[e].retrig = true then 0x00000000#32 else s.env[e].level := by
    rw [hstart]; rfl
  refine ⟨(startVoice note s).nan, startVoice note s, _, nan_NaNs _, exec_startnote_of_prepared hprep note,
    congrArg Host.Outcome.next (whenStage_of_stage hstage _), ?_⟩
  rw [attackStep, drew_putEnv_env, attackNext_eq, ← hlevel]
  simp only
  split
  · exact ⟨rfl, hstage⟩
  · exact ⟨rfl, rfl⟩

end Sys2Proof
end

section
/-! PROOFS. One-sample renders (R345, R264), OUT.ADD (R318), the note ROM (R176), and the selectors that only hand a
value on (R203, R214, R232, R314). -/

namespace Sys2Proof

open Sys2Proof.Machine Sys2Proof.Claims

/-! Selectors (R232, R314) and OP.PROCESS (R203, R214). -/

/-- Settles O26. -/
theorem selectorsHandOnTheirValue : Obligations.SelectorsHandOnTheirValue :=
  fun _ _ _ => ⟨rfl, rfl, rfl, rfl, rfl⟩

theorem processStep_osc {i : OpIdx} {s : State} (h : s.act.op[i].mode = 0) : processStep i s = oscStep i s := by
  rw [processStep, h]; rfl

theorem processStep_lpf {i : OpIdx} {s : State} (h : s.act.op[i].mode = 1) : processStep i s = lpfStep i s := by
  rw [processStep, h]; rfl

theorem processStep_comb {i : OpIdx} {s : State} (h : s.act.op[i].mode = 2) : processStep i s = combStep i s := by
  rw [processStep, h]; rfl

theorem processStep_pass {i : OpIdx} {s : State} (h : 3 ≤ s.act.op[i].mode.toNat) : processStep i s = passStep s := by
  unfold processStep
  split
  case h_4 => rfl
  all_goals omega

/-- Settles O17. -/
theorem processRunsTheSelectedMode : Obligations.ProcessRunsTheSelectedMode := fun _ _ =>
  ⟨fun _ => rfl, fun h => congrArg Host.Outcome.next (processStep_osc h),
    fun h => congrArg Host.Outcome.next (processStep_lpf h), fun h => congrArg Host.Outcome.next (processStep_comb h),
    fun h => congrArg Host.Outcome.next (processStep_pass h)⟩

/-! The note ROM (R176). -/

theorem exec_noteHz (note : BitVec 7) (s : State) : exec (.noteHz note) s = .next { s with noteHz := noteHzOf note } := rfl

/-- The ROM an octave up is the ROM with one more in the exponent. -/
theorem noteRom_octave : ∀ n < 116, noteRom.getD (n + 12) 0 = noteRom.getD n 0 + 0x00800000#32 := by decide

theorem noteHzOf_octave {note : BitVec 7} (h : note.toNat < 116) :
    noteHzOf (note + 12) = noteHzOf note + 0x00800000#32 := by
  have hadd : (note + 12).toNat = note.toNat + 12 := by
    rw [BitVec.toNat_add]
    exact Nat.mod_eq_of_lt (show note.toNat + 12 < 128 by omega)
  show noteRom.getD (note + 12).toNat 0 = noteRom.getD note.toNat 0 + _
  rw [hadd, noteRom_octave _ h]

/-- Settles O35. -/
theorem noteRomHoldsEqualTemperament : Obligations.NoteRomHoldsEqualTemperament := by
  refine ⟨fun note s => ⟨_, exec_noteHz note s, rfl, ⟨fun _ => rfl, fun _ _ => rfl⟩, fun h =>
    ⟨_, exec_noteHz (note + 12) s, noteHzOf_octave h⟩⟩, fun s p hp => ⟨_, exec_noteHz p.1 s, ?_⟩⟩
  show noteHzOf p.1 = p.2
  revert p
  rw [← List.forall_iff_forall_mem]
  exact ⟨rfl, rfl, rfl, rfl, rfl, rfl, rfl, rfl, rfl, rfl, rfl, rfl⟩

/-! OUT.ADD (R318). -/

/-- The OUTBUF address of a state's frame in channel c (R87). -/
def frameAddr (c : Nat) (s : State) : Nat := outAddr c (startOperand s + s.seq.n.toNat)

theorem outAddChannel_frame (c : Nat) (s : State) : outAddChannel c s =
    { s with outbuf := (outAddChannel c s).outbuf, draws := s.draws + 1 } := by
  unfold outAddChannel
  simp only
  rw [outbufWrite_frame]
  rfl

theorem outAddChannel_read (c x : Nat) (s : State) : outbufRead x (outAddChannel c s) =
    if x = frameAddr c s ∧ isOutbuf (frameAddr c s) = true then
      fadd (s.nan 0) (outbufRead (frameAddr c s) s) s.seq.y
    else outbufRead x s :=
  outbufRead_write (frameAddr c s) x _ s

theorem outAddStep_channels (s : State) : outAddStep s = outAddChannel 1 (outAddChannel 0 s) := rfl

/-- What OUTBUF reads after OUT.ADD: the two frame words with y added, and every other word as before. -/
theorem outAddStep_read (x : Nat) (s : State) : outbufRead x (outAddStep s) =
    if x = frameAddr 1 s ∧ isOutbuf (frameAddr 1 s) = true then
      fadd (s.nan 1) (outbufRead (frameAddr 1 s) s) s.seq.y
    else if x = frameAddr 0 s ∧ isOutbuf (frameAddr 0 s) = true then
      fadd (s.nan 0) (outbufRead (frameAddr 0 s) s) s.seq.y
    else outbufRead x s := by
  have hne : frameAddr 1 s ≠ frameAddr 0 s := by
    show 0x1000 + 0x1000 * 1 + _ ≠ 0x1000 + 0x1000 * 0 + _
    omega
  have hlater : frameAddr 1 (outAddChannel 0 s) = frameAddr 1 s ∧ (outAddChannel 0 s).seq = s.seq ∧
      (outAddChannel 0 s).nan 0 = s.nan 1 := by
    rw [outAddChannel_frame]
    exact ⟨rfl, rfl, rfl⟩
  obtain ⟨haddr, hseq, hnan⟩ := hlater
  have hkeep : outbufRead (frameAddr 1 s) (outAddChannel 0 s) = outbufRead (frameAddr 1 s) s := by
    rw [outAddChannel_read, if_neg (fun h => hne h.1)]
  rw [outAddStep_channels, outAddChannel_read, haddr, hseq, hnan, hkeep, outAddChannel_read]

theorem outAddStep_op (s : State) : (outAddStep s).op = s.op := by rw [outAddStep_frame]

/-- Settles O33. -/
theorem outAddWritesEveryChannel : Obligations.OutAddWritesEveryChannel := by
  intro s
  refine ⟨s.nan, outAddStep s, nan_NaNs s, rfl, fun c hc => ?written, fun x hx => ?kept,
    fun i k => delayRead_congr (outAddStep_op s) i k, outAddStep_frame s⟩
  case written =>
    change outbufAddr (frameAddr c.val s) at hc
    show outbufRead (frameAddr c.val s) (outAddStep s) = fadd _ (outbufRead (frameAddr c.val s) s) _
    have h := (isOutbuf_iff_outbufAddr _).mpr hc
    rw [outAddStep_read]
    fin_cases c
    · rw [if_neg, if_pos ⟨rfl, h⟩]
      rintro ⟨h01, -⟩
      change 0x1000 + 0x1000 * 0 + (startOperand s + s.seq.n.toNat) =
        0x1000 + 0x1000 * 1 + (startOperand s + s.seq.n.toNat) at h01
      omega
    · rw [if_pos ⟨rfl, h⟩]
  case kept =>
    have hno (c : Fin 2) : ¬(x = frameAddr c.val s ∧ isOutbuf (frameAddr c.val s) = true) := fun ⟨hxc, hout⟩ =>
      hx c ((isOutbuf_iff_outbufAddr x).mp (by rw [hxc]; exact hout)) hxc
    exact (outAddStep_read x s).trans ((if_neg (hno 1)).trans (if_neg (hno 0)))

/-! RENDER of one sample (R345). -/

/-- RENDER of one sample of a sounding voice is one frame. -/
theorem exec_render_one {s : State} (hprep : s.prepared = true) (hrange : s.arg0.toNat + 1 ≤ s.blockSize.toNat)
    (hcount : s.arg1 = 1) (hv : s.vstate ≠ .idle) : exec .render s = .next (setSeq Seq.idle (renderFrame 0 s)) := by
  have hone : s.arg1.toNat = 1 := by rw [hcount]; rfl
  rw [exec_render_of_legal hprep (by omega), hone, renderFrames_of_sounding 0 0 hv, renderFrames_zero]

/-- Settles O45. -/
theorem renderOneSampleRunsSteps : Obligations.RenderOneSampleRunsSteps := fun s hprep hrange hcount hv =>
  ⟨voiceSampleStep (frameStart 0 s), outAddStep (voiceSampleStep (frameStart 0 s)), renderFrame 0 s, rfl, rfl, rfl,
    exec_render_one hprep hrange hcount hv⟩

/-! A release from level +0.0 (R264). -/

/-- +0.0 over a positive datum is not above 0. -/
theorem zero_fdiv_not_positive (nan : F32) {b : F32} (hb : fgt b fZero = true) : fgt (fdiv nan fZero b) fZero = false := by
  obtain ⟨hnb, -, hb0⟩ := (positive_iff b).mp hb
  rcases finite_or_inf hnb with hfb | hib
  · have hz : isZero b = false := by
      rw [Bool.eq_false_iff, ne_eq, isZero_iff, ← magVal_eq_zero_iff, ← fixMag_eq]
      omega
    have hle := roundF32_le (neg := f32Sign fZero != f32Sign b) (p := fixMag fZero * 2 ^ 149) hb0 (c := fZero) (by decide) (by
      rw [show fixMag fZero = 0 by decide, Nat.zero_mul, fixVal_zero]
      simp [signedNum])
    rw [Bool.eq_false_iff, fdiv_of_finite nan (by decide) hfb hz]
    intro h
    obtain ⟨-, -, h⟩ := (flt_iff_value _ _).mp h
    omega
  · rw [fdiv_of_inf_right nan (by decide) hib]
    cases f32Sign fZero != f32Sign b <;> decide

theorem releaseDec_of_zero_level (nan : F32) {x : Envelope} (h : x.level = fZero) : releaseDec nan x = fZero := by
  unfold releaseDec
  rw [h]
  cases hr : fgt x.rSamples fZero with
  | false => simp
  | true => simp [zero_fdiv_not_positive nan hr]

/-- A release whose level and decrement are +0.0 goes idle at +0.0. -/
theorem nextEnvelope_of_spent (nan : F32) {x : Envelope} (hst : x.stage = .release) (hlevel : x.level = fZero)
    (hdec : x.rDec = fZero) : (nextEnvelope nan x).stage = .idle ∧ (nextEnvelope nan x).level = fZero := by
  unfold nextEnvelope
  rw [hst]
  simp only [releaseNext_eq]
  rw [hlevel, hdec, if_neg]
  · exact ⟨rfl, rfl⟩
  · rw [show fsub nan fZero fZero = fZero from rfl]
    decide

/-- One frame moves each envelope on by one step. -/
theorem renderFrame_env (n : Nat) (s : State) (e : EnvIdx) :
    ∃ nan, (renderFrame n s).env[e] = nextEnvelope nan s.env[e] := by
  obtain ⟨-, -, henv, -⟩ := renderFrame_registers n s
  have hcontrol : (routeStep (lfoStep 1 (lfoStep 0 (frameStart n s)))).env = s.env := control_env _
  rw [henv, voiceSampleStep_env, voiceControl, envStep_env, envStep_env, hcontrol]
  fin_cases e
  · exact ⟨_, by simp; rfl⟩
  · exact ⟨_, by simp; rfl⟩

/-- A sounding voice whose envelopes are both spent completes in one frame. -/
theorem renderFrame_completes (n : Nat) {s : State}
    (h : ∀ e : EnvIdx, s.env[e].stage = .release ∧ s.env[e].level = fZero ∧ s.env[e].rDec = fZero) :
    Completed (renderFrame n s) ∧
      ∀ e : EnvIdx, (renderFrame n s).env[e].stage = .idle ∧ (renderFrame n s).env[e].level = fZero := by
  have henv (e : EnvIdx) : (renderFrame n s).env[e].stage = .idle ∧ (renderFrame n s).env[e].level = fZero := by
    obtain ⟨hst, hlevel, hdec⟩ := h e
    obtain ⟨nan, hnext⟩ := renderFrame_env n s e
    rw [hnext]
    exact nextEnvelope_of_spent nan hst hlevel hdec
  refine ⟨?_, henv⟩
  obtain ⟨-, -, hidle⟩ | hend := renderFrame_voice n s
  · rw [(bothEnvIdle_iff _).mpr ⟨(henv 0).1, (henv 1).1⟩] at hidle
    cases hidle
  · exact hend

theorem releaseVoice_env (s : State) (e : EnvIdx) : (releaseVoice s).env[e] = releasingEnv (s.nan e.val) s.env[e] := by
  rw [releaseVoice_eq, getElem_ofFn_fin]

theorem releaseVoice_registers (s : State) : (releaseVoice s).prepared = s.prepared ∧ (releaseVoice s).arg0 = s.arg0 ∧
    (releaseVoice s).arg1 = s.arg1 ∧ (releaseVoice s).blockSize = s.blockSize ∧ (releaseVoice s).vstate = .releasing := by
  rw [releaseVoice_eq]
  exact ⟨rfl, rfl, rfl, rfl, rfl⟩

theorem startVoice_registers (note : BitVec 7) (s : State) : (startVoice note s).prepared = s.prepared ∧
    (startVoice note s).arg0 = s.arg0 ∧ (startVoice note s).arg1 = s.arg1 ∧
    (startVoice note s).blockSize = s.blockSize ∧ (startVoice note s).vstate = .active := by
  rw [startVoice_eq]
  exact ⟨rfl, rfl, rfl, rfl, rfl⟩

theorem releasingEnv_spent (nan : F32) {x : Envelope} (h : x.level = fZero) : (releasingEnv nan x).stage = .release ∧
    (releasingEnv nan x).level = fZero ∧ (releasingEnv nan x).rDec = fZero :=
  ⟨rfl, h, releaseDec_of_zero_level nan h⟩

/-- Settles O48: the release decrement from level +0.0 is +0.0, so the first step ends both envelopes. -/
theorem immediateStopCompletesInOneSample : Obligations.ImmediateStopCompletesInOneSample := by
  intro s note hprep hrange hcount hlevel
  obtain ⟨hp1, h01, h11, hb1, hv1⟩ := startVoice_registers note s
  obtain ⟨hp2, h02, h12, hb2, hv2⟩ := releaseVoice_registers (startVoice note s)
  have hstart (e : EnvIdx) : (startVoice note s).env[e].level = fZero := by
    rw [startVoice_env]
    show (if s.act.env[e].retrig then fZero else s.env[e].level) = fZero
    rcases hlevel e with h | h
    · rw [h]; rfl
    · rw [h]; split <;> rfl
  have hspent (e : EnvIdx) := releasingEnv_spent ((startVoice note s).nan e.val) (hstart e)
  simp only [← releaseVoice_env] at hspent
  obtain ⟨⟨hvs, hdone, -⟩, henv⟩ := renderFrame_completes 0 hspent
  exact ⟨_, _, _, exec_startnote_of_prepared hprep note, exec_stopnote_tail_of_sounding (by rw [hv1]; decide),
    exec_render_one (by rw [hp2, hp1, hprep]) (by rw [h02, h01, hb2, hb1]; exact hrange) (by rw [h12, h11, hcount])
      (by rw [hv2]; decide), (setSeq_vstate _ _).trans hvs, (setSeq_done _ _).trans hdone,
    by rw [setSeq_env]; exact henv⟩

end Sys2Proof
end

section
/-! PROOFS. The mode bodies of an operator (41_operator.md): what each gives (R204, R206 to R212), and that each reads and
writes only its own part of its operator (R215). -/

namespace Sys2Proof

open Sys2Proof.Machine Sys2Proof.Claims

/-! OP.OSC and OP.LPF as a write of their operator. -/

/-- What OP.OSC gives for a phase (R204). -/
def oscOutput (s : State) (ph : F32) : F32 :=
  fadd (s.nan 4) (sin32 (s.nan 3) (oscArg s.nan ph s.seq.pm s.seq.c1)) s.seq.chain

/-- What OP.LPF gives for two integrators (R206, R207). -/
def lpfOutput (i : OpIdx) (s : State) (s1 s2 : F32) : LpfOut :=
  let g := lpfG (s.nanFrom 7) (lpfCutoff s.nan s.seq.c1 s.act.op[i].keytrk s.noteHz) s.fs
  let r2 := fdiv (s.nan 9) fOne (lpfQ (s.nanFrom 5) s.act.op[i].ctx2)
  lpfCore (s.nanFrom 15) g r2 (lpfH (s.nanFrom 10) r2 g) s.seq.chain s1 s2

theorem oscStep_eq (i : OpIdx) (s : State) : oscStep i s =
    drew 14 (setOut (oscOutput s s.op[i].ph)
      (setOp i { s.op[i] with ph := advancePhase (s.nanFrom 5) s.op[i].ph s.seq.thz s.fs } s)) := rfl

theorem lpfStep_eq (i : OpIdx) (s : State) : lpfStep i s =
    drew 26 (setOut (lpfOutput i s s.op[i].s1 s.op[i].s2).yLP
      (setOp i { s.op[i] with s1 := (lpfOutput i s s.op[i].s1 s.op[i].s2).s1,
                              s2 := (lpfOutput i s s.op[i].s1 s.op[i].s2).s2 } s)) := rfl

/-! What a step that hands on an output and writes its operator leaves. -/

theorem drew_setOut_setOp_out (n : Nat) (x : F32) (i : OpIdx) (o : Operator) (s : State) :
    (drew n (setOut x (setOp i o s))).seq.out = x := rfl

theorem drew_setOut_setOp_op (n : Nat) (x : F32) (i : OpIdx) (o : Operator) (s : State) :
    (drew n (setOut x (setOp i o s))).op[i] = o := setOp_op_self i o s

theorem drew_setOut_setOp_op_ne (n : Nat) (x : F32) {i j : OpIdx} (h : j ≠ i) (o : Operator) (s : State) :
    (drew n (setOut x (setOp i o s))).op[j] = s.op[j] := setOp_op_ne h.symm o s

theorem drew_setOut_setOp_operatorFrame (n : Nat) (x : F32) (i : OpIdx) (o : Operator) (s : State) :
    OperatorFrame i s (drew n (setOut x (setOp i o s))) :=
  ⟨rfl, fun _ h => drew_setOut_setOp_op_ne n x h o s⟩

/-- A write of an operator that keeps its delay RAM keeps all memory. -/
theorem drew_setOut_setOp_memoryKept (n : Nat) (x : F32) {i : OpIdx} {o : Operator} {s : State} (h : o.dly = s.op[i].dly) :
    memoryKept s (drew n (setOut x (setOp i o s))) := by
  refine ⟨fun _ => rfl, fun j k => ?_⟩
  show (ramRead k.toNat (setOp i o s).op[j].dly).getD 0 = (ramRead k.toNat s.op[j].dly).getD 0
  rw [setOp_op]
  split
  next hij => rw [h, hij]
  next => rfl

/-- Settles O14. -/
theorem oscillatorSample : Obligations.OscillatorSample := fun s i =>
  ⟨s.nan, oscStep i s, nan_NaNs s, rfl, rfl, drew_setOut_setOp_op 14 _ i _ s,
    drew_setOut_setOp_operatorFrame 14 _ i _ s, drew_setOut_setOp_memoryKept 14 _ rfl⟩

/-- Settles O15. -/
theorem lowPassSample : Obligations.LowPassSample := fun s i =>
  ⟨s.nan, lpfStep i s, nan_NaNs s, rfl, ⟨rfl, drew_setOut_setOp_op 26 _ i _ s⟩,
    drew_setOut_setOp_operatorFrame 26 _ i _ s, drew_setOut_setOp_memoryKept 26 _ rfl⟩

/-! OP.COMB (R210 to R212). -/

theorem combStep_out (i : OpIdx) (s : State) : (combStep i s).seq.out = fadd (s.nan 3) s.seq.chain (combTap i s) := by
  rw [combStep_frame]

theorem combStep_op_self (i : OpIdx) (s : State) : (combStep i s).op[i] =
    { writeDelay s.op[i].w (combStored i s) s.op[i] with w := s.op[i].w + 1 } := by
  rw [combStep_op, if_pos rfl]

theorem combStep_op_ne {i j : OpIdx} (h : j ≠ i) (s : State) : (combStep i s).op[j] = s.op[j] := by
  rw [combStep_op, if_neg h.symm]

/-- OP.COMB writes the delay word at its write index and no other. -/
theorem combStep_memoryKeptBut (i : OpIdx) (s : State) : MemoryKeptBut i s.op[i].w s (combStep i s) := by
  refine ⟨fun a => outbufRead_congr ?_ ?_ a, fun j l h => ?_⟩
  · rw [combStep_frame]
  · rw [combStep_frame]
  · rw [delayRead_combStep, delayRead_write_ne h]

/-- The delay word at the write index reads as what OP.COMB stores (R212). -/
theorem combStep_stored (i : OpIdx) {s : State} (h : memoryWf s = true) :
    delayRead i s.op[i].w (combStep i s) = combStored i s := by
  rw [delayRead_combStep, delayRead_write i i _ _ _ h, if_pos ⟨rfl, rfl⟩]

/-- Settles O16. -/
theorem combSample : Obligations.CombSample := by
  intro s i hwf
  refine ⟨s.nan, combStep i s, nan_NaNs s, rfl, combStep_out i s, ?stored, ?operator, ?frame,
    fun j h => combStep_op_ne h s, combStep_memoryKeptBut i s⟩
  case stored =>
    rw [combStep_stored i hwf]
    rfl
  case operator => rw [combStep_op_self]; rfl
  case frame =>
    rw [combStep_out, combStep_frame]
    rfl

/-! Each mode keeps to its own part (R215). -/

theorem op_of_setOp (i : OpIdx) (o : Operator) (s : State) : (setOp i o s).op[i] = o := setOp_op_self i o s

/-- OP.OSC with another operator state of the same phase. -/
theorem oscStep_isolated {i : OpIdx} {o : Operator} {s : State} (h : o.ph = s.op[i].ph) :
    (oscStep i (setOp i o s)).seq.out = (oscStep i s).seq.out ∧
    (oscStep i (setOp i o s)).op[i] = { o with ph := (oscStep i s).op[i].ph } := by
  simp only [oscStep_eq, drew_setOut_setOp_out, drew_setOut_setOp_op, op_of_setOp, h]
  exact ⟨rfl, rfl⟩

/-- OP.LPF with another operator state of the same integrators. -/
theorem lpfStep_isolated {i : OpIdx} {o : Operator} {s : State} (h1 : o.s1 = s.op[i].s1) (h2 : o.s2 = s.op[i].s2) :
    (lpfStep i (setOp i o s)).seq.out = (lpfStep i s).seq.out ∧
    (lpfStep i (setOp i o s)).op[i] = { o with s1 := (lpfStep i s).op[i].s1, s2 := (lpfStep i s).op[i].s2 } := by
  simp only [lpfStep_eq, drew_setOut_setOp_out, drew_setOut_setOp_op, op_of_setOp, h1, h2]
  exact ⟨rfl, rfl⟩

theorem combTap_eq (i : OpIdx) (s : State) : combTap i s =
    (ramRead (s.op[i].w - BitVec.ofNat Config.params.delayBits (combLength i s)).toNat s.op[i].dly).getD 0 := rfl

theorem combLength_setOp (i j : OpIdx) (o : Operator) (s : State) : combLength i (setOp j o s) = combLength i s := rfl

theorem combTap_setOp {i : OpIdx} {o : Operator} {s : State} (hd : o.dly = s.op[i].dly) (hw : o.w = s.op[i].w) :
    combTap i (setOp i o s) = combTap i s := by
  rw [combTap_eq, combTap_eq, op_of_setOp, combLength_setOp, hd, hw]

/-- OP.COMB with another operator state of the same delay line. -/
theorem combStep_isolated {i : OpIdx} {o : Operator} {s : State} (hd : o.dly = s.op[i].dly) (hw : o.w = s.op[i].w) :
    (combStep i (setOp i o s)).seq.out = (combStep i s).seq.out ∧
    (combStep i (setOp i o s)).op[i] = { o with dly := (combStep i s).op[i].dly, w := (combStep i s).op[i].w } := by
  have htap := combTap_setOp hd hw
  have hstored : combStored i (setOp i o s) = combStored i s := by
    unfold combStored
    rw [htap]
    rfl
  rw [combStep_out, combStep_out, combStep_op_self, combStep_op_self, op_of_setOp, htap, hstored]
  exact ⟨rfl, by simp only [writeDelay, hd, hw]⟩

theorem processStep_op_ne {i j : OpIdx} (h : j ≠ i) (s : State) : (processStep i s).op[j] = s.op[j] := by
  unfold processStep
  split
  · exact drew_setOut_setOp_op_ne 14 _ h _ s
  · exact drew_setOut_setOp_op_ne 26 _ h _ s
  · exact combStep_op_ne h s
  · rfl

/-- Settles O18. -/
theorem modesAreIsolated : Obligations.ModesAreIsolated := by
  intro s i o
  refine ⟨processStep i s, processStep i (setOp i o s), rfl, rfl, fun j h => processStep_op_ne h s,
    fun h => ?osc, fun h => ?lpf, fun h => ?comb, fun h => ?pass⟩
  case osc =>
    rw [processStep_osc h, processStep_osc (s := setOp i o s) h]
    refine ⟨?_, oscStep_isolated⟩
    rw [oscStep_eq, drew_setOut_setOp_op]
  case lpf =>
    rw [processStep_lpf h, processStep_lpf (s := setOp i o s) h]
    refine ⟨?_, lpfStep_isolated⟩
    rw [lpfStep_eq, drew_setOut_setOp_op]
  case comb =>
    rw [processStep_comb h, processStep_comb (s := setOp i o s) h]
    refine ⟨?_, combStep_isolated⟩
    rw [combStep_op_self]
    rfl
  case pass =>
    rw [processStep_pass h, processStep_pass (s := setOp i o s) h]
    exact ⟨rfl, rfl, op_of_setOp i o s⟩

end Sys2Proof
end

section
/-! PROOFS. The LFO generators (44_lfo.md): the waveforms (R284 to R287), their range (R288), LFO.STEP (R283). -/

namespace Sys2Proof

open Sys2Proof.Machine Sys2Proof.Claims

/-! The waveform selectors (R121). -/

/-- How many NaNs a waveform draws. -/
def waveDraws (sel : Fin 4) : Nat :=
  match sel with
  | 0 => 1
  | 1 => 3
  | 2 => 2
  | 3 => 0

/-- Each selector hands on its waveform of the phase. -/
theorem exec_wave (sel : Fin 4) (k : LfoIdx) (s : State) :
    exec (waveInstr sel k) s = .next (drew (waveDraws sel) (setWave (waveform s.nan sel s.lph[k]) s)) := by
  fin_cases sel <;> rfl

/-- WAVEFORM runs the selector ACT holds. -/
theorem waveStep_eq (k : LfoIdx) (s : State) : waveStep k s =
    drew (waveDraws s.act.lfo[k].wave) (setWave (waveform s.nan s.act.lfo[k].wave s.lph[k]) s) := by
  unfold waveStep
  generalize s.act.lfo[k].wave = sel
  fin_cases sel <;> rfl

/-- Settles O23. -/
theorem waveformsOfThePhase : Obligations.WaveformsOfThePhase := fun s k sel =>
  ⟨s.nan, _, nan_NaNs s, exec_wave sel k s, rfl, fun _ => rfl, fun _ _ => rfl⟩

/-! LFO.STEP (R283). -/

/-- The first n NaNs of one supply, then those of another. -/
def splice (n : Nat) (first later : Nat → F32) : Nat → F32 := fun k => if k < n then first k else later (k - n)

theorem splice_NaNs {n : Nat} {first later : Nat → F32} (hf : NaNs first) (hl : NaNs later) : NaNs (splice n first later) := by
  intro k
  unfold splice
  split
  · exact hf k
  · exact hl (k - n)

theorem splice_lt {n k : Nat} (h : k < n) (first later : Nat → F32) : splice n first later k = first k := if_pos h

theorem splice_add (n k : Nat) (first later : Nat → F32) : splice n first later (n + k) = later k := by
  rw [splice, if_neg (by omega), Nat.add_sub_cancel_left]

/-- A waveform takes its NaNs from the first three of a supply. -/
theorem waveform_splice (first later : Nat → F32) (sel : Fin 4) (ph : F32) :
    waveform (splice 3 first later) sel ph = waveform first sel ph := by
  fin_cases sel <;> rfl

/-- LFO.STEP after its waveform. -/
theorem lfoFinish_eq (k : LfoIdx) (s : State) : lfoFinish k s =
    { s with
      lph := s.lph.set k.val (nextPhase (s.nanFrom 1) s.lph[k] s.act.lfo[k].freq s.fs) k.isLt
      seq := { s.seq with lv := s.seq.lv.set k.val (fmul (s.nan 0) s.seq.wave s.act.lfo[k].amount) k.isLt }
      draws := s.draws + 10 } := rfl

theorem lfoStep_eq (k : LfoIdx) (s : State) : lfoStep k s =
    { s with
      lph := s.lph.set k.val (nextPhase (s.nanFrom (waveDraws s.act.lfo[k].wave + 1)) s.lph[k] s.act.lfo[k].freq s.fs) k.isLt
      seq := { s.seq with
               wave := waveform s.nan s.act.lfo[k].wave s.lph[k]
               lv := s.seq.lv.set k.val (fmul (s.nan (waveDraws s.act.lfo[k].wave))
                 (waveform s.nan s.act.lfo[k].wave s.lph[k]) s.act.lfo[k].amount) k.isLt }
      draws := s.draws + (waveDraws s.act.lfo[k].wave + 10) } := by
  rw [lfoStep, waveStep_eq, lfoFinish_eq]
  generalize hn : waveDraws s.act.lfo[k].wave = n
  generalize waveform s.nan s.act.lfo[k].wave s.lph[k] = w
  have hnan : (drew n (setWave w s)).nan = s.nanFrom n := drew_nan n (setWave w s)
  have hfrom : (drew n (setWave w s)).nanFrom 1 = s.nanFrom (n + 1) := by
    funext j
    rw [State.nanFrom, hnan, State.nanFrom, State.nanFrom, Nat.add_assoc]
  rw [hfrom, hnan]
  rfl

/-- Settles O25: the waveform's NaNs first, then those of the scaling and of the advance. -/
theorem lfoStepScalesThenAdvances : Obligations.LfoStepScalesThenAdvances := by
  intro s k
  refine ⟨splice 3 s.nan (s.nanFrom (waveDraws s.act.lfo[k].wave)), lfoStep k s,
    splice_NaNs (nan_NaNs s) (nanFrom_NaNs _ s), rfl, ?frame, ?memory⟩
  case frame =>
    have hadvance : (fun n => splice 3 s.nan (s.nanFrom (waveDraws s.act.lfo[k].wave)) (4 + n)) =
        s.nanFrom (waveDraws s.act.lfo[k].wave + 1) := by
      funext n
      rw [show 4 + n = 3 + (1 + n) by omega, splice_add, State.nanFrom, State.nanFrom, Nat.add_assoc]
    rw [waveform_splice, hadvance, show (3 : Nat) = 3 + 0 from rfl, splice_add, lfoStep_eq]
    rfl
  case memory =>
    rw [lfoStep_controlFrame]
    exact ⟨fun _ => rfl, fun _ _ => rfl⟩

/-! The range of the waveforms (R288 (b)). -/

theorem fle_fneg (a b : F32) : fle (fneg a) (fneg b) = fle b a := by
  rw [Bool.eq_iff_iff, fle_iff_value, fle_iff_value, isNaN_fneg, isNaN_fneg, fixVal_fneg, fixVal_fneg]
  constructor
  · exact fun ⟨ha, hb, h⟩ => ⟨hb, ha, by omega⟩
  · exact fun ⟨hb, ha, h⟩ => ⟨ha, hb, by omega⟩

/-- A sign given to a datum of a symmetric range keeps it there. -/
theorem withSignOf_range (x : F32) {m hi : F32} (hlo : fle (fneg hi) m = true) (hhi : fle m hi = true) :
    fle (fneg hi) (withSignOf x m) = true ∧ fle (withSignOf x m) hi = true := by
  unfold withSignOf
  split
  · refine ⟨by rwa [fle_fneg], ?_⟩
    rwa [← fle_fneg, fneg_fneg]
  · exact ⟨hlo, hhi⟩

theorem zero_range {x hi : F32} (hz : isZero x = true) (hhi : fle fZero hi = true) :
    fle (fneg hi) x = true ∧ fle x hi = true := by
  have hmag := (isZero_iff x).mp hz
  have hval := (fixVal_eq_zero_iff x).mpr hmag
  have hnan : isNaN x = false := (isNaN_eq_false_iff x).mpr (by omega)
  obtain ⟨-, hn, h0⟩ := (fle_iff_value _ _).mp hhi
  rw [fixVal_zero] at h0
  rw [fle_iff_value, fle_iff_value, isNaN_fneg, fixVal_fneg]
  exact ⟨⟨hn, hnan, by omega⟩, hnan, hn, by omega⟩

/-- The sine of a finite operand lies in [-1, 1] (R170 (S2)). -/
theorem sin32_range (nan : F32) {x : F32} (h : isFinite x = true) :
    fle 0xBF800000#32 (sin32 nan x) = true ∧ fle (sin32 nan x) 0x3F800000#32 = true := by
  unfold sin32
  rw [h]
  simp only [Bool.not_true, Bool.false_eq_true, if_false]
  split
  next hz => exact zero_range (hi := fOne) hz (by decide)
  next => exact withSignOf_range x (hi := fOne) (clamp_range (by decide)).1 (clamp_range (by decide)).2

theorem isFinite_of_inPhase {x : F32} (h : inPhase x) : isFinite x = true :=
  isFinite_of_fle h.1 (fle_of_flt h.2) (by decide) (by decide)

/-- A phase over π lies in [0, 2] (R285). -/
theorem phase_over_pi (nan : F32) {ph : F32} (h : inPhase ph) :
    isFinite (fdiv nan ph fPi) = true ∧ 0 ≤ fixVal (fdiv nan ph fPi) ∧
      fixVal (fdiv nan ph fPi) ≤ fixVal 0x40000000#32 := by
  have hfin := isFinite_of_inPhase h
  obtain ⟨hnan, h0⟩ := (nonNegative_iff _).mp (fdiv_nonNegative nan hfin h.1 (b := fPi) (by decide))
  obtain ⟨-, -, hlt⟩ := (flt_iff_value _ _).mp h.2
  obtain ⟨-, hge⟩ := (nonNegative_iff ph).mp h.1
  have hpi : fixMag fPi = 13176795 * 2 ^ 127 := rfl
  have htwo : fixVal 0x40000000#32 = 2 * 2 ^ 149 := rfl
  have htau : fixVal fTwoPi = 13176795 * 2 ^ 128 := rfl
  have hmag := natAbs_fixVal ph
  have hround : fixVal (fdiv nan ph fPi) ≤ fixVal 0x40000000#32 := by
    rw [fdiv_of_finite nan hfin (by decide) (by decide)]
    refine roundF32_le (by decide) (by decide) ?_
    have hle : fixMag ph * 2 ^ 149 ≤ 2 * 2 ^ 149 * fixMag fPi := by
      have : fixMag ph ≤ 2 * fixMag fPi := by rw [hpi]; omega
      calc fixMag ph * 2 ^ 149 ≤ 2 * fixMag fPi * 2 ^ 149 := Nat.mul_le_mul_right _ this
        _ = 2 * 2 ^ 149 * fixMag fPi := by ring
    have hsigned : signedNum (f32Sign ph != f32Sign fPi) (fixMag ph * 2 ^ 149) ≤ (fixMag ph * 2 ^ 149 : Nat) := by
      unfold signedNum
      split <;> omega
    rw [htwo]
    exact hsigned.trans (by exact_mod_cast hle)
  refine ⟨isFinite_of_fle (lo := fZero) (hi := 0x40000000#32) ?_ ?_ (by decide) (by decide), h0, hround⟩
  · exact (nonNegative_iff _).mpr ⟨hnan, h0⟩
  · exact (fle_iff_value _ _).mpr ⟨hnan, by decide, hround⟩

/-- The saw of a phase lies in [-1, 1] (R285, R288). -/
theorem saw_range (n0 n1 : F32) {ph : F32} (h : inPhase ph) :
    fle 0xBF800000#32 (fsub n1 (fdiv n0 ph fPi) fOne) = true ∧ fle (fsub n1 (fdiv n0 ph fPi) fOne) 0x3F800000#32 = true := by
  obtain ⟨hfin, h0, h2⟩ := phase_over_pi n0 h
  have hone : fixVal (0x3F800000#32 : F32) = 2 ^ 149 := rfl
  have hneg : fixVal (0xBF800000#32 : F32) = -2 ^ 149 := rfl
  have hneg' : fixVal (fneg fOne) = -2 ^ 149 := rfl
  have htwo : fixVal (0x40000000#32 : F32) = 2 * 2 ^ 149 := rfl
  have hn := fadd_finite_not_nan n1 hfin (b := fneg fOne) (by decide)
  rw [fsub, fle_iff_value, fle_iff_value]
  exact ⟨⟨by decide, hn, le_fadd n1 hfin (by decide) (by decide) (by rw [hneg, hneg']; omega)⟩,
    hn, by decide, fadd_le n1 hfin (by decide) (by decide) (by rw [hneg', hone]; omega)⟩

theorem waveform_range (nan : Nat → F32) (sel : Fin 4) {ph : F32} (h : inPhase ph) :
    fle 0xBF800000#32 (waveform nan sel ph) = true ∧ fle (waveform nan sel ph) 0x3F800000#32 = true := by
  match sel with
  | 0 => exact sin32_range _ (isFinite_of_inPhase h)
  | 1 => exact clamp_range (by decide)
  | 2 => exact saw_range _ _ h
  | 3 =>
    unfold waveform
    simp only
    split <;> decide

/-- Settles O24. -/
theorem waveformsStayInUnitRange : Obligations.WaveformsStayInUnitRange := fun s k sel h =>
  ⟨_, exec_wave sel k s, waveform_range s.nan sel h⟩

end Sys2Proof
end

section
/-! PROOFS. The modulation router (42_router.md): the destination words (R124, R231, R311, R312), ROUTE (R231), and the
phase-modulation sum (R311). -/

namespace Sys2Proof

open Sys2Proof.Machine Sys2Proof.Claims

/-! One contribution (R231, R234). -/

theorem offset_eq_offAt (s : State) (d : Dest) : offset s d.val = offAt d s := by
  simp [offset, offAt]

theorem contribution_eq (nan : F32) (site : DestSite) (s : State) :
    contribution nan site s = fmul nan (siteValue site s) (siteDepth site s) := by
  cases site <;> rfl

theorem accumulate_off (site : DestSite) (d e : Dest) (s : State) : offAt e (accumulate site d s) =
    if e = d then fadd (s.nan 1) (offAt d s) (fmul (s.nan 0) (siteValue site s) (siteDepth site s)) else offAt e s := by
  show (s.seq.off.set d.val _ d.isLt)[e] = _
  by_cases h : e = d
  · rw [if_pos h, h]; simp
  · have hne : d.val ≠ e.val := fun hv => h (Fin.ext hv.symm)
    rw [if_neg h]
    exact Vector.getElem_set_ne _ _ hne

/-- An accumulation, with whatever parameter is latched after it, contributes to its destination and to no other. -/
theorem contributes_of_off {site : DestSite} {d : Dest} {s t : State} (h : t.seq.off = (accumulate site d s).seq.off) :
    Contributes s.nan d.val site s t := by
  intro e
  have hoff : t.seq.off[e] = offAt e (accumulate site d s) := by rw [h]; rfl
  rw [hoff, accumulate_off, contribution_eq]
  by_cases he : e = d
  · rw [if_pos he, if_pos (by rw [he]), he]; rfl
  · rw [if_neg he, if_neg (fun hv => he (Fin.ext hv))]; rfl

theorem accumulate_frame (site : DestSite) (d : Dest) (s : State) : accumulate site d s =
    { s with seq := { s.seq with off := (accumulate site d s).seq.off }, draws := s.draws + 2 } := rfl

theorem accumulate_nan (site : DestSite) (d : Dest) (s : State) : (accumulate site d s).nan 0 = s.nan 2 := rfl

theorem accumulate_act (site : DestSite) (d : Dest) (s : State) : (accumulate site d s).act = s.act := rfl

/-! The four parameters a contribution forms (R311, R312). -/

theorem latchGain_gain (i : OpIdx) (s : State) : (latchGain i s).seq.gain =
    clamp (fadd (s.nan 0) s.act.op[i].sgain (offAt (gainDest i) s)) 0x00000000#32 0x3F800000#32 := rfl

theorem latchRatio_ratio (i : OpIdx) (s : State) : (latchRatio i s).seq.ratio =
    clamp (fadd (s.nan 0) s.act.op[i].ratio (offAt (ratioDest i) s)) 0x3DCCCCCD#32 0x41A00000#32 := rfl

theorem latchCtx1_c1 (i : OpIdx) (s : State) : (latchCtx1 i s).seq.c1 =
    clamp (fadd (s.nan 0) s.act.op[i].ctx1 (offAt (ctx1Dest i) s)) 0x00000000#32 0x3F800000#32 := rfl

theorem latchCell_weight (i j : OpIdx) (s : State) : (latchCell i j s).seq.weight =
    clamp (fadd (s.nan 0) s.act.matrix[i][j] (offAt (cellDest i j) s)) 0xBF800000#32 0x3F800000#32 := rfl

theorem latchGain_frame (i : OpIdx) (s : State) : latchGain i s =
    { s with seq := { s.seq with gain := (latchGain i s).seq.gain }, draws := s.draws + 1 } := rfl

theorem latchRatio_frame (i : OpIdx) (s : State) : latchRatio i s =
    { s with seq := { s.seq with ratio := (latchRatio i s).seq.ratio }, draws := s.draws + 1 } := rfl

theorem latchCtx1_frame (i : OpIdx) (s : State) : latchCtx1 i s =
    { s with seq := { s.seq with c1 := (latchCtx1 i s).seq.c1 }, draws := s.draws + 1 } := rfl

theorem latchCell_frame (i j : OpIdx) (s : State) : latchCell i j s =
    { s with seq := { s.seq with weight := (latchCell i j s).seq.weight }, draws := s.draws + 1 } := rfl

/-- A destination word of a serial gain. -/
theorem toGain_effect (i : OpIdx) (site : DestSite) (s : State) : ∃ t, toGain i site s = .next t ∧
    Contributes s.nan (1 + i.val) site s t ∧
    t.seq.gain = clamp (fadd (s.nan 2) s.act.op[i].sgain (offset t (1 + i.val))) 0x00000000#32 0x3F800000#32 ∧
    t = { s with seq := { s.seq with off := t.seq.off, gain := t.seq.gain }, draws := t.draws } ∧ memoryKept s t := by
  refine ⟨latchGain i (accumulate site (gainDest i) s), rfl, contributes_of_off (d := gainDest i) rfl, ?_, ?_,
    seqFrame_memoryKept (seqFrame_trans (accumulate_seqFrame site _ s) (latchGain_seqFrame i _))⟩
  · rw [show 1 + i.val = (gainDest i).val from rfl, offset_eq_offAt, latchGain_gain, accumulate_nan, accumulate_act]
    rfl
  · rw [latchGain_frame, accumulate_frame]

/-- A destination word of a ratio. -/
theorem toRatio_effect (i : OpIdx) (site : DestSite) (s : State) : ∃ t, toRatio i site s = .next t ∧
    Contributes s.nan (7 + i.val) site s t ∧
    t.seq.ratio = clamp (fadd (s.nan 2) s.act.op[i].ratio (offset t (7 + i.val))) 0x3DCCCCCD#32 0x41A00000#32 ∧
    t = { s with seq := { s.seq with off := t.seq.off, ratio := t.seq.ratio }, draws := t.draws } ∧ memoryKept s t := by
  refine ⟨latchRatio i (accumulate site (ratioDest i) s), rfl, contributes_of_off (d := ratioDest i) rfl, ?_, ?_,
    seqFrame_memoryKept (seqFrame_trans (accumulate_seqFrame site _ s) (latchRatio_seqFrame i _))⟩
  · rw [show 7 + i.val = (ratioDest i).val from rfl, offset_eq_offAt, latchRatio_ratio, accumulate_nan, accumulate_act]
    rfl
  · rw [latchRatio_frame, accumulate_frame]

/-- A destination word of a context-1. -/
theorem toCtx1_effect (i : OpIdx) (site : DestSite) (s : State) : ∃ t, toCtx1 i site s = .next t ∧
    Contributes s.nan (13 + i.val) site s t ∧
    t.seq.c1 = clamp (fadd (s.nan 2) s.act.op[i].ctx1 (offset t (13 + i.val))) 0x00000000#32 0x3F800000#32 ∧
    t = { s with seq := { s.seq with off := t.seq.off, c1 := t.seq.c1 }, draws := t.draws } ∧ memoryKept s t := by
  refine ⟨latchCtx1 i (accumulate site (ctx1Dest i) s), rfl, contributes_of_off (d := ctx1Dest i) rfl, ?_, ?_,
    seqFrame_memoryKept (seqFrame_trans (accumulate_seqFrame site _ s) (latchCtx1_seqFrame i _))⟩
  · rw [show 13 + i.val = (ctx1Dest i).val from rfl, offset_eq_offAt, latchCtx1_c1, accumulate_nan, accumulate_act]
    rfl
  · rw [latchCtx1_frame, accumulate_frame]

/-- A destination word of a matrix cell. -/
theorem toCell_effect (i j : OpIdx) (site : DestSite) (s : State) : ∃ t, toCell i j site s = .next t ∧
    Contributes s.nan (19 + 6 * i.val + j.val) site s t ∧
    t.seq.weight = clamp (fadd (s.nan 2) s.act.matrix[i][j] (offset t (19 + 6 * i.val + j.val))) 0xBF800000#32 0x3F800000#32 ∧
    t = { s with seq := { s.seq with off := t.seq.off, weight := t.seq.weight }, draws := t.draws } ∧ memoryKept s t := by
  refine ⟨latchCell i j (accumulate site (cellDest i j) s), rfl, contributes_of_off (d := cellDest i j) rfl, ?_, ?_,
    seqFrame_memoryKept (seqFrame_trans (accumulate_seqFrame site _ s) (latchCell_seqFrame i j _))⟩
  · rw [show 19 + 6 * i.val + j.val = (cellDest i j).val from rfl, offset_eq_offAt, latchCell_weight,
      accumulate_nan, accumulate_act]
    rfl
  · rw [latchCell_frame, accumulate_frame]

/-- Settles O27. -/
theorem parameterDestinationsAccumulate : Obligations.ParameterDestinationsAccumulate := by
  intro s site
  refine ⟨fun p hp => ⟨s.nan, ?_⟩, fun p hp => ⟨s.nan, ?_⟩, fun p hp => ⟨s.nan, ?_⟩⟩
  · rw [exec_gainWord site s p hp]
    obtain ⟨t, h⟩ := toGain_effect p.2 site s
    exact ⟨t, nan_NaNs s, h⟩
  · rw [exec_ratioWord site s p hp]
    obtain ⟨t, h⟩ := toRatio_effect p.2 site s
    exact ⟨t, nan_NaNs s, h⟩
  · rw [exec_ctx1Word site s p hp]
    obtain ⟨t, h⟩ := toCtx1_effect p.2 site s
    exact ⟨t, nan_NaNs s, h⟩

/-- Settles O28. -/
theorem cellDestinationsAccumulate : Obligations.CellDestinationsAccumulate := by
  intro s site p hp
  rw [exec_cellWord site s p hp]
  obtain ⟨t, h⟩ := toCell_effect p.2.1 p.2.2 site s
  exact ⟨s.nan, t, nan_NaNs s, h⟩

/-! ROUTE (R231). A contribution draws only where its destination is not 0, so the supply of NaNs is built along the
fold. -/

/-- What ROUTE changes on its way: offsets other than offset 0, the last source, the draws. -/
def Routing (s t : State) : Prop :=
  t = { s with seq := { s.seq with off := t.seq.off, src := t.seq.src }, draws := t.draws } ∧ offAt 0 t = fZero

theorem srcStep_eq (j : SlotIdx) (s : State) :
    srcStep j s = setSrc (sourceValue s s.act.slot[j].src) s := by
  unfold srcStep
  generalize s.act.slot[j].src = src
  fin_cases src <;> rfl

theorem Routing.act {s t : State} (h : Routing s t) : t.act = s.act := by rw [h.1]

theorem Routing.sourceValue {s t : State} (h : Routing s t) (src : Fin 3) : sourceValue t src = sourceValue s src := by
  rw [h.1]
  rfl

theorem Routing.lv {s t : State} (h : Routing s t) : t.seq.lv = s.seq.lv := by rw [h.1]

theorem Routing.accumulate {s t : State} (h : Routing s t) (site : DestSite) {d : Dest} (hd : d ≠ 0) (v : F32) :
    Routing s (accumulate site d (setSrc v t)) ∧ Routing s (Machine.accumulate site d t) := by
  obtain ⟨hframe, hzero⟩ := h
  refine ⟨⟨?_, ?_⟩, ?_, ?_⟩
  · unfold Machine.accumulate setSrc setSeq drew
    rw [hframe]
  · rw [accumulate_off, if_neg hd.symm]; exact hzero
  · unfold Machine.accumulate setSeq drew
    rw [hframe]
  · rw [accumulate_off, if_neg hd.symm]; exact hzero

theorem Routing.slot {s t : State} (h : Routing s t) (j : SlotIdx) : Routing s (routeSlot j t) := by
  unfold routeSlot
  simp only
  split
  · exact h
  next hd => rw [srcStep_eq]; exact (h.accumulate _ hd _).1

theorem Routing.direct {s t : State} (h : Routing s t) (k : LfoIdx) : Routing s (routeDirect k t) := by
  unfold routeDirect
  simp only
  split
  · exact h
  next hd => exact (h.accumulate _ hd fZero).2

/-- One slot's contribution with its two NaNs given. -/
def slotContribution (s : State) (d : Dest) (n0 n1 x : F32) (j : SlotIdx) : F32 :=
  if s.act.slot[j].dest = d then fadd n1 x (fmul n0 (sourceValue s s.act.slot[j].src) s.act.slot[j].amount) else x

/-- One direct mapping's contribution with its two NaNs given. -/
def directContribution (s : State) (d : Dest) (n0 n1 x : F32) (k : LfoIdx) : F32 :=
  if s.act.lfo[k].ddest = d then fadd n1 x (fmul n0 s.seq.lv[k] s.act.lfo[k].ddepth) else x

theorem routeSlot_off {s t : State} (h : Routing s t) {d : Dest} (hd : d ≠ 0) (j : SlotIdx) :
    offAt d (routeSlot j t) = slotContribution s d (t.nan 0) (t.nan 1) (offAt d t) j := by
  unfold routeSlot slotContribution
  simp only
  rw [h.act]
  split
  next h0 => rw [if_neg (by rw [h0]; exact hd.symm)]
  next =>
    rw [srcStep_eq, h.act, h.sourceValue, accumulate_off]
    by_cases he : d = s.act.slot[j].dest
    · rw [if_pos he, if_pos he.symm, ← he]
      show fadd _ _ (fmul _ _ t.act.slot[j].amount) = _
      rw [h.act]
      rfl
    · rw [if_neg he, if_neg (Ne.symm he)]
      rfl

theorem routeDirect_off {s t : State} (h : Routing s t) {d : Dest} (hd : d ≠ 0) (k : LfoIdx) :
    offAt d (routeDirect k t) = directContribution s d (t.nan 0) (t.nan 1) (offAt d t) k := by
  unfold routeDirect directContribution
  simp only
  rw [h.act]
  split
  next h0 => rw [if_neg (by rw [h0]; exact hd.symm)]
  next =>
    rw [accumulate_off]
    by_cases he : d = s.act.lfo[k].ddest
    · rw [if_pos he, if_pos he.symm, ← he]
      show fadd _ _ (fmul _ t.seq.lv[k] t.act.lfo[k].ddepth) = _
      rw [h.act, h.lv]
    · rw [if_neg he, if_neg (Ne.symm he)]

/-- A fold whose step a adds a term with the two NaNs it draws: some supply gives step a the NaNs 2·idx a and
2·idx a + 1. -/
theorem foldl_supply {α : Type} (idx : α → Nat) {step : State → α → State} {term : Dest → F32 → F32 → F32 → α → F32}
    {P : State → Prop} (hP : ∀ t a, P t → P (step t a))
    (hstep : ∀ t a d, P t → d ≠ 0 → offAt d (step t a) = term d (t.nan 0) (t.nan 1) (offAt d t) a)
    (l : List α) (hl : (l.map idx).Nodup) {t : State} (ht : P t) :
    ∃ nan, NaNs nan ∧ ∀ d, d ≠ 0 → offAt d (l.foldl step t) =
      l.foldl (fun x a => term d (nan (2 * idx a)) (nan (2 * idx a + 1)) x a) (offAt d t) := by
  induction l generalizing t with
  | nil => exact ⟨t.nan, nan_NaNs t, fun _ _ => rfl⟩
  | cons a l ih =>
    rw [List.map_cons, List.nodup_cons] at hl
    obtain ⟨hnew, hl⟩ := hl
    obtain ⟨later, hlater, hrest⟩ := ih hl (hP t a ht)
    refine ⟨fun k => if k = 2 * idx a ∨ k = 2 * idx a + 1 then t.nan (k - 2 * idx a) else later k, fun k => ?_,
      fun d hd => ?_⟩
    · simp only
      split
      · exact nan_NaNs t _
      · exact hlater k
    · rw [List.foldl_cons, List.foldl_cons, hrest d hd, hstep t a d ht hd]
      simp only [true_or, or_true, if_true, Nat.sub_self, Nat.add_sub_cancel_left]
      refine List.foldl_ext _ _ _ fun x b hb => ?_
      have hne : idx b ≠ idx a := fun he => hnew (by rw [← he]; exact List.mem_map_of_mem hb)
      rw [if_neg (by omega), if_neg (by omega)]

theorem allSlots_eq : allSlots = List.finRange 8 := by decide

theorem clearOff_routing (s : State) : Routing s (clearOff s) := ⟨rfl, getElem_replicate_fin fZero 0⟩

theorem clearOff_off (s : State) (d : Dest) : offAt d (clearOff s) = fZero := getElem_replicate_fin fZero d

theorem routeStep_eq (s : State) : routeStep s =
    (List.finRange 2).foldl (fun t k => routeDirect k t) ((List.finRange 8).foldl (fun t j => routeSlot j t) (clearOff s)) := by
  rw [← allSlots_eq, show List.finRange 2 = [0, 1] by decide, List.foldl_cons, List.foldl_cons, List.foldl_nil, routeStep]

theorem routeStep_routing (s : State) : Routing s (routeStep s) := by
  rw [routeStep_eq]
  exact foldl_keeps (Routing s) (fun t k h => h.direct k) _
    (foldl_keeps (Routing s) (fun t j h => h.slot j) _ (clearOff_routing s))

/-- Settles O29: slots draw NaNs 0 to 15 of the supply, direct mappings NaNs 16 to 19. -/
theorem routeSumsContributions : Obligations.RouteSumsContributions := by
  intro s
  have hslots : Routing s ((List.finRange 8).foldl (fun t j => routeSlot j t) (clearOff s)) :=
    foldl_keeps (Routing s) (fun t j h => h.slot j) _ (clearOff_routing s)
  obtain ⟨first, hfirst, hoff⟩ := foldl_supply (fun j : SlotIdx => j.val) (term := slotContribution s)
    (fun t j (h : Routing s t) => h.slot j) (fun t j d h hd => routeSlot_off h hd j) (List.finRange 8) (by decide)
    (clearOff_routing s)
  obtain ⟨later, hlater, hoff'⟩ := foldl_supply (fun k : LfoIdx => k.val) (term := directContribution s)
    (fun t k (h : Routing s t) => h.direct k) (fun t k d h hd => routeDirect_off h hd k) (List.finRange 2) (by decide) hslots
  obtain ⟨hframe, hzero⟩ := routeStep_routing s
  refine ⟨splice 16 first later, routeStep s, splice_NaNs hfirst hlater, rfl, fun d => ?_, hframe,
    seqFrame_memoryKept (routeStep_seqFrame s)⟩
  by_cases hd : d = 0
  · rw [if_pos hd, hd]; exact hzero
  · rw [if_neg hd]
    show offAt d (routeStep s) = _
    rw [routeStep_eq, hoff' d hd, hoff d hd, clearOff_off, routedOffset]
    have hslot : List.foldl (fun x j => slotContribution s d (first (2 * j.val)) (first (2 * j.val + 1)) x j) fZero
          (List.finRange 8) =
        List.foldl (slotTerm (splice 16 first later) s d) 0x00000000#32 (List.finRange 8) :=
      List.foldl_ext _ _ _ fun x j _ => by
        rw [slotTerm, splice_lt (by omega), splice_lt (by omega)]
        rfl
    rw [hslot]
    refine List.foldl_ext _ _ _ fun x k _ => ?_
    rw [directTerm, show 17 + 2 * k.val = 16 + (2 * k.val + 1) by omega, splice_add, splice_add]
    rfl

/-! PM (R311). -/

/-- What the phase-modulation sum changes on its way, after n terms. -/
def Summing (n : Nat) (s t : State) : Prop :=
  t = { s with seq := { s.seq with pm := t.seq.pm, weight := t.seq.weight }, draws := s.draws + 3 * n }

/-- The term of source operator j (R311). -/
def pmAdd (s : State) (i : OpIdx) (acc : F32) (j : OpIdx) : F32 :=
  fadd (s.nan (3 * j.val + 2)) acc (fmul (s.nan (3 * j.val + 1)) s.opout[j]
    (clamp (fadd (s.nan (3 * j.val)) s.act.matrix[i][j] (offset s (19 + 6 * i.val + j.val))) 0xBF800000#32 0x3F800000#32))

/-- The part of a term after its weight is latched. -/
def addTerm (j : OpIdx) (s : State) : State :=
  drew 2 (setSeq { s.seq with pm := fadd (s.nan 1) s.seq.pm (fmul (s.nan 0) s.opout[j] s.seq.weight) } s)

theorem addTerm_latched (j : OpIdx) (w : F32) (s : State) :
    addTerm j { s with seq := { s.seq with weight := w }, draws := s.draws + 1 } =
      { s with seq := { s.seq with pm := fadd (s.nan 2) s.seq.pm (fmul (s.nan 1) s.opout[j] w), weight := w },
               draws := s.draws + 3 } := rfl

/-- One term of the sum: its weight, and the sum with it. -/
theorem pmTerm_eq (i j : OpIdx) (s : State) : pmTerm i j s =
    { s with seq := { s.seq with
                      pm := fadd (s.nan 2) s.seq.pm (fmul (s.nan 1) s.opout[j] (latchCell i j s).seq.weight)
                      weight := (latchCell i j s).seq.weight },
             draws := s.draws + 3 } :=
  (congrArg (addTerm j) (latchCell_frame i j s)).trans (addTerm_latched j _ s)

theorem pmTerm_summing {n : Nat} {s t : State} (h : Summing n s t) (i j : OpIdx) : Summing (n + 1) s (pmTerm i j t) := by
  unfold Summing
  rw [pmTerm_eq]
  generalize (latchCell i j t).seq.weight = weight
  generalize fadd (t.nan 2) t.seq.pm (fmul (t.nan 1) t.opout[j] weight) = pm
  rw [h]
  rfl

theorem pmTerm_pm_eq (i j : OpIdx) (s : State) : (pmTerm i j s).seq.pm =
    fadd (s.nan 2) s.seq.pm (fmul (s.nan 1) s.opout[j] (latchCell i j s).seq.weight) := by
  rw [pmTerm_eq]

theorem Summing.nan {n : Nat} {s t : State} (h : Summing n s t) (k : Nat) : t.nan k = s.nan (3 * n + k) := by
  rw [h, State.nan, State.nan, Nat.add_assoc]

theorem Summing.registers {n : Nat} {s t : State} (h : Summing n s t) :
    t.opout = s.opout ∧ t.act = s.act ∧ t.seq.off = s.seq.off := by
  rw [h]
  exact ⟨rfl, rfl, rfl⟩

theorem pmTerm_pm {s t : State} {i j : OpIdx} (h : Summing j.val s t) : (pmTerm i j t).seq.pm = pmAdd s i t.seq.pm j := by
  obtain ⟨hopout, hact, hoff⟩ := h.registers
  rw [pmTerm_pm_eq, latchCell_weight, h.nan, h.nan, h.nan, hopout, hact, offAt, hoff, pmAdd,
    show 19 + 6 * i.val + j.val = (cellDest i j).val from rfl, offset_eq_offAt]
  rfl

theorem pmFold {s : State} (i : OpIdx) (l : List OpIdx) {n : Nat} {t : State}
    (hl : l.map (fun j => j.val) = List.range' n l.length) (h : Summing n s t) :
    (l.foldl (fun t j => pmTerm i j t) t).seq.pm = l.foldl (pmAdd s i) t.seq.pm ∧
    Summing (n + l.length) s (l.foldl (fun t j => pmTerm i j t) t) := by
  induction l generalizing n t with
  | nil => exact ⟨rfl, h⟩
  | cons j l ih =>
    rw [List.map_cons, List.length_cons, List.range'_succ, List.cons.injEq] at hl
    obtain ⟨hj, hl⟩ := hl
    obtain ⟨hpm, hsum⟩ := ih hl (pmTerm_summing h i j)
    rw [List.foldl_cons, List.foldl_cons, hpm, pmTerm_pm (by rw [hj]; exact h)]
    exact ⟨rfl, by rw [List.length_cons, Nat.add_comm l.length 1, ← Nat.add_assoc]; exact hsum⟩

theorem allOps_eq : allOps = List.finRange 6 := by decide

theorem pmStep_eq (i : OpIdx) (s : State) : (pmStep i s).seq.pm = pmSum s.nan i s ∧ Summing 6 s (pmStep i s) := by
  obtain ⟨hpm, hsum⟩ := pmFold (s := s) i allOps (n := 0) (t := setSeq { s.seq with pm := fZero } s) rfl rfl
  exact ⟨by rw [pmStep, hpm, allOps_eq]; rfl, hsum⟩

/-- Settles O31. -/
theorem phaseModulationSum : Obligations.PhaseModulationSum := by
  intro s i
  obtain ⟨hpm, hsum⟩ := pmStep_eq i s
  refine ⟨s.nan, pmStep i s, nan_NaNs s, rfl, hpm, ?_, seqFrame_memoryKept (pmStep_seqFrame i s)⟩
  rw [hsum]

end Sys2Proof
end

section
/-! PROOFS. VOICE.SAMPLE step by step (R310 to R317): one operator's turn, and the sample as the sequence of its steps. -/

namespace Sys2Proof

open Sys2Proof.Machine Sys2Proof.Claims

/-! The operands of a turn (R312, R314). -/

theorem envsrcStep_eq (i : OpIdx) (s : State) : envsrcStep i s =
    setLevel (if s.act.op[i].envsrc = 0 then s.seq.ev[0] else s.seq.ev[1]) s := by
  unfold envsrcStep
  generalize s.act.op[i].envsrc = src
  fin_cases src <;> rfl

/-- The transient values with a turn's operands latched. -/
def latchOperands (q : Seq) (level gain ratio c1 thz : F32) : Seq :=
  { q with env := level, gain := gain, ratio := ratio, c1 := c1, thz := thz }

theorem latchOperands_par (q : Seq) (e g r c h : F32) : (latchOperands q e g r c h).par = q.par := rfl

theorem latchOperands_env (q : Seq) (e g r c h : F32) : (latchOperands q e g r c h).env = e := rfl

theorem latchOperands_gain (q : Seq) (e g r c h : F32) : (latchOperands q e g r c h).gain = g := rfl

/-- The level operator i multiplies by (R314). -/
def levelOf (i : OpIdx) (s : State) : F32 := if s.act.op[i].envsrc = 0 then s.seq.ev[0] else s.seq.ev[1]

/-- The modulated serial gain, ratio and context-1 of operator i (R312). -/
def gainOf (nan : F32) (i : OpIdx) (s : State) : F32 :=
  clamp (fadd nan s.act.op[i].sgain (offset s (1 + i.val))) 0x00000000#32 0x3F800000#32

def ratioOf (nan : F32) (i : OpIdx) (s : State) : F32 :=
  clamp (fadd nan s.act.op[i].ratio (offset s (7 + i.val))) 0x3DCCCCCD#32 0x41A00000#32

def ctx1Of (nan : F32) (i : OpIdx) (s : State) : F32 :=
  clamp (fadd nan s.act.op[i].ctx1 (offset s (13 + i.val))) 0x00000000#32 0x3F800000#32

/-- The transient values with the operands of operator i latched, from the NaNs 0 to 3 of a supply. -/
def operandsOf (nan : Nat → F32) (i : OpIdx) (s : State) : Seq :=
  latchOperands s.seq (levelOf i s) (gainOf (nan 0) i s) (ratioOf (nan 1) i s) (ctx1Of (nan 2) i s)
    (fmul (nan 3) s.noteHz (ratioOf (nan 1) i s))

theorem modGain_eq (i : OpIdx) (s : State) : modGain i s = gainOf (s.nan 0) i s := by
  rw [gainOf, show 1 + i.val = (gainDest i).val from rfl, offset_eq_offAt]; rfl

theorem modRatio_eq (i : OpIdx) (s : State) : modRatio i s = ratioOf (s.nan 0) i s := by
  rw [ratioOf, show 7 + i.val = (ratioDest i).val from rfl, offset_eq_offAt]; rfl

theorem modCtx1_eq (i : OpIdx) (s : State) : modCtx1 i s = ctx1Of (s.nan 0) i s := by
  rw [ctx1Of, show 13 + i.val = (ctx1Dest i).val from rfl, offset_eq_offAt]; rfl

/-! Each latch in the state the one before it leaves. -/

theorem setLevel_eq (e : F32) (s : State) : setLevel e s = { s with seq := { s.seq with env := e } } := rfl

theorem latchGain_level (i : OpIdx) (e : F32) (s : State) : latchGain i { s with seq := { s.seq with env := e } } =
    { s with seq := { s.seq with env := e, gain := gainOf (s.nan 0) i s }, draws := s.draws + 1 } := by
  rw [latchGain, modGain_eq]; rfl

theorem latchRatio_gain (i : OpIdx) (e g : F32) (s : State) :
    latchRatio i { s with seq := { s.seq with env := e, gain := g }, draws := s.draws + 1 } =
    { s with seq := { s.seq with env := e, gain := g, ratio := ratioOf (s.nan 1) i s }, draws := s.draws + 2 } := by
  rw [latchRatio, modRatio_eq]; rfl

theorem latchCtx1_ratio (i : OpIdx) (e g r : F32) (s : State) :
    latchCtx1 i { s with seq := { s.seq with env := e, gain := g, ratio := r }, draws := s.draws + 2 } =
    { s with seq := { s.seq with env := e, gain := g, ratio := r, c1 := ctx1Of (s.nan 2) i s }, draws := s.draws + 3 } := by
  rw [latchCtx1, modCtx1_eq]; rfl

theorem targetStep_ctx1 (e g r c : F32) (s : State) :
    targetStep { s with seq := { s.seq with env := e, gain := g, ratio := r, c1 := c }, draws := s.draws + 3 } =
    { s with seq := latchOperands s.seq e g r c (fmul (s.nan 3) s.noteHz r), draws := s.draws + 4 } := rfl

/-- The envelope level and the modulated parameters (R312, R314) as one latch. -/
theorem modulateStep_eq (i : OpIdx) (s : State) : modulateStep i (envsrcStep i s) =
    { s with seq := operandsOf s.nan i s, draws := s.draws + 4 } := by
  rw [modulateStep, envsrcStep_eq, setLevel_eq, latchGain_level, latchRatio_gain, latchCtx1_ratio, targetStep_ctx1,
    operandsOf, levelOf]

/-! A mode body leaves every operand of its turn as it is. -/

theorem processStep_seq (i : OpIdx) (s : State) : (processStep i s).seq =
    { s.seq with out := (processStep i s).seq.out, dval := (processStep i s).seq.dval } := by
  unfold processStep
  split
  · rw [oscStep_frame]
  · rw [lpfStep_frame]
  · rw [combStep_frame]
  · rfl

theorem processStep_paths (i : OpIdx) (s : State) : (processStep i s).seq.par = s.seq.par ∧
    (processStep i s).seq.env = s.seq.env ∧ (processStep i s).seq.gain = s.seq.gain := by
  rw [processStep_seq]
  exact ⟨rfl, rfl, rfl⟩

theorem processStep_act (i : OpIdx) (s : State) : (processStep i s).act = s.act := by
  rw [processStep_turnFrame]

/-! What follows the mode body (R313, R315, R316). -/

theorem storeOut_eq (i : OpIdx) (s : State) : storeOut i s = { s with opout := s.opout.set i.val s.seq.out i.isLt } := rfl

theorem parallelStep_eq (i : OpIdx) (o : Vector F32 6) (s : State) : parallelStep i { s with opout := o } =
    { s with
      opout := o
      seq := { s.seq with
               par := fadd (s.nan 2) s.seq.par (fmul (s.nan 1) (fmul (s.nan 0) s.seq.out s.act.op[i].pgain) s.seq.env) }
      draws := s.draws + 3 } := rfl

theorem serialStep_eq (o : Vector F32 6) (p : F32) (s : State) :
    serialStep { s with opout := o, seq := { s.seq with par := p }, draws := s.draws + 3 } =
    { s with
      opout := o
      seq := { s.seq with par := p, chain := fmul (s.nan 4) (fmul (s.nan 3) s.seq.out s.seq.gain) s.seq.env }
      draws := s.draws + 5 } := rfl

/-- What follows the mode body, from the operands of the turn. -/
theorem operatorResult_eq {i : OpIdx} {s : State} {par env gain : F32} {act : Snapshot} (hpar : s.seq.par = par)
    (henv : s.seq.env = env) (hgain : s.seq.gain = gain) (hact : s.act = act) : operatorResult i s =
    { s with
      opout := s.opout.set i.val s.seq.out i.isLt
      seq := { s.seq with
               par := fadd (s.nan 2) par (fmul (s.nan 1) (fmul (s.nan 0) s.seq.out act.op[i].pgain) env)
               chain := fmul (s.nan 4) (fmul (s.nan 3) s.seq.out gain) env }
      draws := s.draws + 5 } := by
  subst hpar henv hgain hact
  rw [operatorResult, storeOut_eq, parallelStep_eq, serialStep_eq]

/-! One turn (R310). -/

/-- The state of operator i's turn with its index latched. -/
def turnStart (i : OpIdx) (s : State) : State := setSeq { s.seq with i := i } s

theorem operatorOperands_eq (i : OpIdx) (s : State) : operatorOperands i s =
    { pmStep i (turnStart i s) with
      seq := operandsOf (pmStep i (turnStart i s)).nan i (pmStep i (turnStart i s))
      draws := (pmStep i (turnStart i s)).draws + 4 } := modulateStep_eq i _

/-- What the operands are latched from: PM leaves it as the turn found it. -/
theorem pmStep_keeps (i : OpIdx) (s : State) : (pmStep i (turnStart i s)).act = s.act ∧
    (pmStep i (turnStart i s)).noteHz = s.noteHz ∧ (pmStep i (turnStart i s)).seq.ev = s.seq.ev ∧
    (pmStep i (turnStart i s)).seq.off = s.seq.off ∧ (pmStep i (turnStart i s)).seq.par = s.seq.par := by
  obtain ⟨-, hsum⟩ := pmStep_eq i (turnStart i s)
  rw [hsum]
  exact ⟨rfl, rfl, rfl, rfl, rfl⟩

theorem operandsOf_congr {nan : Nat → F32} {i : OpIdx} {s a : State} (hact : a.act = s.act) (hnote : a.noteHz = s.noteHz)
    (hev : a.seq.ev = s.seq.ev) (hoff : a.seq.off = s.seq.off) : operandsOf nan i a =
      latchOperands a.seq (levelOf i s) (gainOf (nan 0) i s) (ratioOf (nan 1) i s) (ctx1Of (nan 2) i s)
        (fmul (nan 3) s.noteHz (ratioOf (nan 1) i s)) := by
  have hoffset (n : Nat) : offset a n = offset s n := by rw [offset, offset, hoff]
  simp only [operandsOf, levelOf, gainOf, ratioOf, ctx1Of, hoffset, hact, hnote, hev]

/-- The operator's turn is that of R310, with the NaNs of its operands first and those of both paths after them. -/
theorem voiceOperator_turn (i : OpIdx) (s : State) : OperatorTurn i s (voiceOperator i s) := by
  obtain ⟨hact, hnote, hev, hoff, hpar⟩ := pmStep_keeps i s
  have hoperands := operatorOperands_eq i s
  have hq : (operatorOperands i s).seq = operandsOf (pmStep i (turnStart i s)).nan i (pmStep i (turnStart i s)) := by
    rw [hoperands]
  rw [operandsOf_congr hact hnote hev hoff] at hoperands hq
  obtain ⟨hpar', henv', hgain'⟩ := processStep_paths i (operatorOperands i s)
  rw [hq, latchOperands_par, hpar] at hpar'
  rw [hq, latchOperands_env] at henv'
  rw [hq, latchOperands_gain] at hgain'
  have hact' : (processStep i (operatorOperands i s)).act = s.act := by rw [processStep_act, hoperands, hact]
  have hresult := operatorResult_eq (i := i) hpar' henv' hgain' hact'
  rw [voiceOperator_eq]
  refine ⟨splice 4 (pmStep i (turnStart i s)).nan (processStep i (operatorOperands i s)).nan,
    (pmStep i (turnStart i s)).draws + 4, pmStep i (turnStart i s), processStep i (operatorOperands i s),
    splice_NaNs (nan_NaNs _) (nan_NaNs _), rfl, congrArg (exec (.opProcess i)) hoperands.symm, ?_⟩
  rw [hresult]
  rfl

/-! What a sample does to a delay line (R212, R323). -/

theorem delayRead_of_op {i : OpIdx} {s t : State} (h : t.op[i] = s.op[i]) (k : DelayIdx) :
    delayRead i k t = delayRead i k s := by
  rw [delayRead, delayRead, h]

theorem set_ph_w (o : Operator) (ph : F32) : ({ o with ph := ph } : Operator).w = o.w := rfl

theorem set_integrators_w (o : Operator) (s1 s2 : F32) : ({ o with s1 := s1, s2 := s2 } : Operator).w = o.w := rfl

theorem oscStep_delay (i : OpIdx) (s : State) :
    (oscStep i s).op[i].w = s.op[i].w ∧ memoryKept s (oscStep i s) :=
  ⟨by rw [oscStep_eq, drew_setOut_setOp_op, set_ph_w], drew_setOut_setOp_memoryKept 14 _ rfl⟩

theorem lpfStep_delay (i : OpIdx) (s : State) :
    (lpfStep i s).op[i].w = s.op[i].w ∧ memoryKept s (lpfStep i s) :=
  ⟨by rw [lpfStep_eq, drew_setOut_setOp_op, set_integrators_w], drew_setOut_setOp_memoryKept 26 _ rfl⟩

/-- A mode body advances the write index by 1 in comb mode, and writes no delay word but the one there. -/
theorem processStep_delay (i : OpIdx) (s : State) :
    (processStep i s).op[i].w = (if s.act.op[i].mode = 2 then s.op[i].w + 1 else s.op[i].w) ∧
    ∀ k, ¬(s.act.op[i].mode = 2 ∧ k = s.op[i].w) → delayRead i k (processStep i s) = delayRead i k s := by
  by_cases h2 : s.act.op[i].mode = 2
  · rw [processStep_comb h2, if_pos h2, combStep_op_self]
    obtain ⟨-, hkept⟩ := combStep_memoryKeptBut i s
    exact ⟨rfl, fun k hk => hkept i k fun ⟨_, hw⟩ => hk ⟨h2, hw⟩⟩
  · rw [if_neg h2]
    by_cases h0 : s.act.op[i].mode = 0
    · obtain ⟨hw, -, hread⟩ := oscStep_delay i s
      rw [processStep_osc h0]
      exact ⟨hw, fun k _ => hread i k⟩
    · by_cases h1 : s.act.op[i].mode = 1
      · obtain ⟨hw, -, hread⟩ := lpfStep_delay i s
        rw [processStep_lpf h1]
        exact ⟨hw, fun k _ => hread i k⟩
      · rw [processStep_pass (by bv_omega)]
        exact ⟨rfl, fun _ _ => rfl⟩

theorem operatorOperands_registers (i : OpIdx) (s : State) :
    (operatorOperands i s).act = s.act ∧ (operatorOperands i s).op = s.op := by
  rw [operatorOperands_seqFrame]
  exact ⟨rfl, rfl⟩

theorem voiceOperator_op_ne {i j : OpIdx} (h : j ≠ i) (s : State) : (voiceOperator i s).op[j] = s.op[j] := by
  obtain ⟨-, hop⟩ := operatorOperands_registers i s
  rw [voiceOperator_op, processStep_op_ne h, hop]

theorem voiceOperator_act (i : OpIdx) (s : State) : (voiceOperator i s).act = s.act := by
  rw [voiceOperator_turnFrame]

theorem foldl_voiceOperator_op_of_not_mem {i : OpIdx} (l : List OpIdx) (h : i ∉ l) (s : State) :
    (l.foldl (fun t j => voiceOperator j t) s).op[i] = s.op[i] := by
  induction l generalizing s with
  | nil => rfl
  | cons j l ih =>
    rw [List.mem_cons, not_or] at h
    rw [List.foldl_cons, ih h.2, voiceOperator_op_ne h.1]

/-- In the loop over the operators, operator i's state is what its own mode body makes of it. -/
theorem foldl_voiceOperator_op {i : OpIdx} (l : List OpIdx) (hl : l.Nodup) (h : i ∈ l) (s : State) :
    ∃ x, x.act = s.act ∧ x.op[i] = s.op[i] ∧
      (l.foldl (fun t j => voiceOperator j t) s).op[i] = (processStep i x).op[i] := by
  induction l generalizing s with
  | nil => cases h
  | cons j l ih =>
    rw [List.nodup_cons] at hl
    rw [List.foldl_cons]
    by_cases hij : i = j
    · subst hij
      obtain ⟨hact, hop⟩ := operatorOperands_registers i s
      exact ⟨operatorOperands i s, hact, by rw [hop], by
        rw [foldl_voiceOperator_op_of_not_mem l hl.1, voiceOperator_op]⟩
    · obtain ⟨x, hact, hop, hx⟩ := ih hl.2 ((List.mem_cons.mp h).resolve_left hij) (voiceOperator j s)
      exact ⟨x, by rw [hact, voiceOperator_act], by rw [hop, voiceOperator_op_ne hij], hx⟩

theorem voiceControl_registers (s : State) :
    (clearPaths (voiceControl s)).act = s.act ∧ (clearPaths (voiceControl s)).op = s.op := by
  have hframe := (voiceControl_controlFrame s).trans (ControlFrame.of_seqFrame (clearPaths_seqFrame _))
  rw [hframe]
  exact ⟨rfl, rfl⟩

theorem voiceSampleStep_operator (i : OpIdx) (s : State) :
    ∃ x, x.act = s.act ∧ x.op[i] = s.op[i] ∧ (voiceSampleStep s).op[i] = (processStep i x).op[i] := by
  obtain ⟨hact, hop⟩ := voiceControl_registers s
  obtain ⟨x, hxact, hxop, hx⟩ := foldl_voiceOperator_op allOps (by decide) (by rw [allOps_eq]; exact List.mem_finRange i)
    (clearPaths (voiceControl s))
  exact ⟨x, by rw [hxact, hact], by rw [hxop, hop], by rw [voiceSampleStep_op]; exact hx⟩

/-- A sample advances the write index of each operator in comb mode, and writes only the delay word there. -/
theorem voiceSampleStep_delay (i : OpIdx) (s : State) :
    (voiceSampleStep s).op[i].w = (if s.act.op[i].mode = 2 then s.op[i].w + 1 else s.op[i].w) ∧
    ∀ k, ¬(s.act.op[i].mode = 2 ∧ k = s.op[i].w) → delayRead i k (voiceSampleStep s) = delayRead i k s := by
  obtain ⟨x, hact, hop, hx⟩ := voiceSampleStep_operator i s
  obtain ⟨hw, hread⟩ := processStep_delay i x
  rw [hact, hop] at hw hread
  exact ⟨by rw [hx, hw], fun k hk => (delayRead_of_op hx k).trans ((hread k hk).trans (delayRead_of_op hop k))⟩

/-! VOICE.SAMPLE (R310). -/

/-- The state after the first n operators of a sample. -/
def afterOperators (s : State) (n : Nat) : State :=
  (allOps.take n).foldl (fun t i => voiceOperator i t) (clearPaths (voiceControl s))

theorem afterOperators_succ (s : State) (i : OpIdx) :
    afterOperators s (i.val + 1) = voiceOperator i (afterOperators s i.val) := by
  have hget : allOps[i.val]'i.isLt = i := by revert i; decide
  rw [afterOperators, List.take_succ_eq_append_getElem i.isLt, List.foldl_append, hget, ← afterOperators,
    List.foldl_cons, List.foldl_nil]

theorem voiceSampleStep_eq_headroom (s : State) : voiceSampleStep s = headroomStep (afterOperators s 6) := rfl

theorem headroomStep_eq (s : State) : headroomStep s =
    { s with seq := { s.seq with y := fmul (s.nan 1) (fadd (s.nan 0) s.seq.par s.seq.chain) 0x3E4CCCCD#32 },
             draws := s.draws + 2 } := rfl

theorem headroomStep_result {s t : State} (h : t = headroomStep s) : t =
    { s with seq := { s.seq with y := fmul (s.nan 1) (fadd (s.nan 0) s.seq.par s.seq.chain) 0x3E4CCCCD#32 },
             draws := t.draws } := by
  rw [h, headroomStep_eq]

theorem voiceSampleStep_memory (s : State) :
    (voiceSampleStep s).outbuf = s.outbuf ∧ (voiceSampleStep s).epoch = s.epoch := by
  rw [voiceSampleStep_voiceFrame]
  exact ⟨rfl, rfl⟩

/-- Settles O32. -/
theorem voiceSampleRunsItsSteps : Obligations.VoiceSampleRunsItsSteps := by
  intro s
  refine ⟨(afterOperators s 6).nan, lfoStep 0 s, lfoStep 1 (lfoStep 0 s), routeStep (lfoStep 1 (lfoStep 0 s)),
    envStep 0 (routeStep (lfoStep 1 (lfoStep 0 s))), voiceControl s, voiceSampleStep s, afterOperators s, nan_NaNs _,
    rfl, rfl, rfl, exec_envStep_of_stage rfl, exec_envStep_of_stage rfl, rfl, fun i => ?turn, rfl, ?headroom,
    voiceSampleStep_voiceFrame s, fun x => ?outbuf, fun i k hk => (voiceSampleStep_delay i s).2 k hk⟩
  case turn => rw [afterOperators_succ]; exact voiceOperator_turn i _
  case headroom => exact headroomStep_result (voiceSampleStep_eq_headroom s)
  case outbuf => exact outbufRead_congr (voiceSampleStep_memory s).1 (voiceSampleStep_memory s).2 x

end Sys2Proof
end

section
/-! PROOFS. Rounding by its property (R151): what the machine rounds to is the nearest datum, ties to even, and an infinity
from the midpoint past the largest datum on. -/

namespace Sys2Proof

open Sys2Proof.Machine Sys2Proof.Claims

/-! A datum's fields and its magnitude (R150). -/

theorem f32Exp_eq_iff (x : F32) (e : BitVec 8) : f32Exp x = e.toNat ↔ x.extractLsb' 23 8 = e := BitVec.toNat_inj

theorem f32Frac_eq_zero_iff (x : F32) : f32Frac x = 0 ↔ x.extractLsb' 0 23 = 0 :=
  BitVec.toNat_inj (x := x.extractLsb' 0 23) (y := 0)

theorem magnitude_eq_fixMag (x : F32) : magnitude x = fixMag x := by
  have hexp : f32Exp x = 0 ↔ x.extractLsb' 23 8 = 0 := f32Exp_eq_iff x 0
  unfold magnitude fixMag
  by_cases h : x.extractLsb' 23 8 = 0
  · rw [if_pos h, if_pos (hexp.mpr h)]; rfl
  · rw [if_neg h, if_neg (mt hexp.mp h)]; rfl

theorem value_eq_fixVal (x : F32) : value x = fixVal x := by
  rw [value, fixVal, magnitude_eq_fixMag]; rfl

theorem magnitude_eq_magVal (x : F32) : magnitude x = magVal (f32Mag x) := by
  rw [magnitude_eq_fixMag, fixMag_eq]

/-! The quotient to the nearest integer. -/

theorem roundHalfEven_even_of_tie {p d : Nat} (h : 2 * ((p : Int) - roundHalfEven p d * d).natAbs = d) (hd : 0 < d) :
    roundHalfEven p d % 2 = 0 := by
  have hdiv := Nat.div_add_mod p d
  have hmod := Nat.mod_lt p hd
  revert h
  unfold roundHalfEven
  simp only
  split
  next hlow =>
    intro h
    have : ((p : Int) - (p / d : Nat) * d) = (p % d : Nat) := by
      have : (p : Int) = d * (p / d : Nat) + (p % d : Nat) := by exact_mod_cast hdiv.symm
      linarith
    rw [this] at h
    omega
  next =>
    split
    next hhigh =>
      intro h
      have : ((p : Int) - (p / d + 1 : Nat) * d) = (p % d : Nat) - d := by
        have : (p : Int) = d * (p / d : Nat) + (p % d : Nat) := by exact_mod_cast hdiv.symm
        push_cast at this ⊢
        linarith
      rw [this] at h
      omega
    next => intro _; omega

/-- The rounded quotient is the nearest integer, and even where another is as near. -/
theorem roundHalfEven_nearest (p : Nat) {d : Nat} (hd : 0 < d) (j : Nat) :
    ((p : Int) - roundHalfEven p d * d).natAbs ≤ ((p : Int) - j * d).natAbs ∧
    (((p : Int) - roundHalfEven p d * d).natAbs = ((p : Int) - j * d).natAbs →
      j = roundHalfEven p d ∨ roundHalfEven p d % 2 = 0) := by
  obtain ⟨herr1, herr2⟩ := roundHalfEven_error p hd
  have htie := fun h => roundHalfEven_even_of_tie (p := p) h hd
  generalize roundHalfEven p d = k at *
  by_cases hjk : j = k
  · subst hjk; exact ⟨le_refl _, fun _ => .inl rfl⟩
  · have hprod : (j : Int) * d + d ≤ k * d ∨ (k : Int) * d + d ≤ j * d := by
      rcases Nat.lt_or_gt_of_ne hjk with h | h
      · left
        calc (j : Int) * d + d = (j + 1) * d := by ring
          _ ≤ k * d := by exact_mod_cast Nat.mul_le_mul_right d h
      · right
        calc (k : Int) * d + d = (k + 1) * d := by ring
          _ ≤ j * d := by exact_mod_cast Nat.mul_le_mul_right d h
    have h1 : 2 * ((k : Int) * d) ≤ 2 * p + d := by exact_mod_cast herr1
    have h2 : 2 * (p : Int) ≤ 2 * ((k : Int) * d) + d := by exact_mod_cast herr2
    generalize (k : Int) * d = K at *
    generalize (j : Int) * d = J at *
    exact ⟨by omega, fun he => .inr (htie (by omega))⟩

/-! The rounded magnitude, before the bound of the format. -/

/-- The rounded magnitude in a format without a largest exponent. -/
def roundWide (p q : Nat) : Nat := roundShift (p / q) * 2 ^ 23 + roundHalfEven p (q * 2 ^ roundShift (p / q))

theorem roundMag_eq_min (p q : Nat) : roundMag p q = min infMag (roundWide p q) := rfl

/-- The significand and the scale of a rounded magnitude. -/
theorem magVal_roundWide {p q : Nat} (hq : 0 < q) :
    magVal (roundWide p q) = roundHalfEven p (q * 2 ^ roundShift (p / q)) * 2 ^ roundShift (p / q) ∧
    (roundShift (p / q) = 0 ∨ 2 ^ 23 * (q * 2 ^ roundShift (p / q)) ≤ p) := by
  unfold roundWide roundShift
  by_cases hn : p / q < 2 ^ 24
  · rw [if_pos hn]
    have hr : roundHalfEven p (q * 2 ^ 0) ≤ 2 ^ 24 := by
      rw [pow_zero, mul_one]
      exact roundHalfEven_le ((Nat.div_lt_iff_lt_mul hq).mp hn).le
    rw [zero_mul, zero_add]
    refine ⟨?_, .inl rfl⟩
    rcases Nat.lt_or_eq_of_le hr with h | h
    · rw [magVal_small h, pow_zero, Nat.mul_one, Nat.mul_one]
    · rw [h]; decide
  · rw [if_neg hn]
    have hne : p / q ≠ 0 := by omega
    have hlog : 24 ≤ (p / q).log2 := (Nat.le_log2 hne).mpr (by omega)
    have hup := div_lt_pow (p := p) hq
    have hlo := pow_le_div hne
    generalize (p / q).log2 = L at *
    obtain ⟨t, rfl⟩ : ∃ t, L = t + 23 := ⟨L - 23, by omega⟩
    rw [Nat.add_sub_cancel]
    have hbase : 2 ^ 23 * (q * 2 ^ t) ≤ p := le_of_eq_of_le (by rw [pow_add]; ring) hlo
    have hpos : 0 < q * 2 ^ t := by positivity
    refine ⟨magVal_scaled (le_roundHalfEven hpos hbase) (roundHalfEven_le ?_), .inr hbase⟩
    exact hup.le.trans (le_of_eq (by rw [pow_add, pow_add]; ring))

/-- Magnitudes from 2^23 units of 2^s on are multiples of 2^s. -/
theorem pow_dvd_magVal {m s : Nat} (h : 2 ^ 23 * 2 ^ s ≤ magVal m) : 2 ^ s ∣ magVal m := by
  have hs : 1 ≤ 2 ^ s := Nat.one_le_two_pow
  unfold magVal at *
  split at h
  · rename_i hm
    have : 2 ^ 23 * 1 ≤ 2 ^ 23 * 2 ^ s := Nat.mul_le_mul_left _ hs
    omega
  · rename_i hm
    rw [if_neg hm]
    refine (Nat.pow_dvd_pow 2 ?_).mul_left _
    by_contra hlt
    have hfrac : 2 ^ 23 + m % 2 ^ 23 < 2 ^ 24 := by omega
    have : (2 ^ 23 + m % 2 ^ 23) * 2 ^ (m / 2 ^ 23 - 1) < 2 ^ 23 * 2 ^ s := by
      calc (2 ^ 23 + m % 2 ^ 23) * 2 ^ (m / 2 ^ 23 - 1) < 2 ^ 24 * 2 ^ (m / 2 ^ 23 - 1) :=
            Nat.mul_lt_mul_of_pos_right hfrac (by positivity)
        _ = 2 ^ 23 * 2 ^ (m / 2 ^ 23 - 1 + 1) := by rw [pow_succ]; ring
        _ ≤ 2 ^ 23 * 2 ^ s := Nat.mul_le_mul_left _ (Nat.pow_le_pow_right (by norm_num) (by omega))
    omega

/-- The distance of p/q from a magnitude v, over the denominator. -/
def distance (p q v : Nat) : Nat := ((p : Int) - v * q).natAbs

/-- No magnitude is nearer than the rounded one, and one as near leaves an even significand (R151). -/
theorem roundWide_nearest {p q : Nat} (hq : 0 < q) (m : Nat) :
    distance p q (magVal (roundWide p q)) ≤ distance p q (magVal m) ∧
    (distance p q (magVal (roundWide p q)) = distance p q (magVal m) →
      magVal m = magVal (roundWide p q) ∨ roundWide p q % 2 = 0) := by
  obtain ⟨hval, hbase⟩ := magVal_roundWide (p := p) hq
  have hparity : roundWide p q % 2 = roundHalfEven p (q * 2 ^ roundShift (p / q)) % 2 := by unfold roundWide; omega
  rw [hparity, hval]
  generalize roundShift (p / q) = s at *
  have hd : 0 < q * 2 ^ s := by positivity
  have hscale (j : Nat) : distance p q (j * 2 ^ s) = ((p : Int) - j * (q * 2 ^ s : Nat)).natAbs := by
    unfold distance
    congr 2
    push_cast
    ring
  rw [hscale]
  by_cases hdvd : 2 ^ s ∣ magVal m
  · obtain ⟨j, hj⟩ := hdvd
    rw [hj, mul_comm (2 ^ s) j, hscale]
    obtain ⟨hle, htie⟩ := roundHalfEven_nearest p hd j
    exact ⟨hle, fun h => (htie h).imp (fun hjk => by rw [hjk]) id⟩
  · have hsmall : magVal m < 2 ^ 23 * 2 ^ s := not_le.mp (mt pow_dvd_magVal hdvd)
    have hlow : 2 ^ 23 * (q * 2 ^ s) ≤ p := by
      rcases hbase with h | h
      · rw [h, pow_zero] at hdvd; exact absurd (one_dvd _) hdvd
      · exact h
    obtain ⟨hle, -⟩ := roundHalfEven_nearest p hd (2 ^ 23)
    have hlt : magVal m * q < 2 ^ 23 * (q * 2 ^ s) := by
      calc magVal m * q < 2 ^ 23 * 2 ^ s * q := Nat.mul_lt_mul_of_pos_right hsmall hq
        _ = 2 ^ 23 * (q * 2 ^ s) := by ring
    have hfar : ((p : Int) - (2 ^ 23 : Nat) * (q * 2 ^ s : Nat)).natAbs < distance p q (magVal m) := by
      unfold distance
      have h1 : ((2 ^ 23 : Nat) : Int) * (q * 2 ^ s : Nat) ≤ p := by exact_mod_cast hlow
      have h2 : (magVal m : Int) * q < (2 ^ 23 : Nat) * (q * 2 ^ s : Nat) := by exact_mod_cast hlt
      generalize ((2 ^ 23 : Nat) : Int) * (q * 2 ^ s : Nat) = D at *
      generalize (magVal m : Int) * q = M at *
      omega
    exact ⟨hle.trans hfar.le, fun h => absurd h (by omega)⟩

/-! The bound of the format. -/

theorem magVal_infMag : magVal infMag = 2 ^ 24 * 2 ^ 253 := rfl

theorem magVal_largest : magVal (infMag - 1) = (2 ^ 24 - 1) * 2 ^ 253 := rfl

/-- Rounding passes the largest datum from the midpoint past it on. -/
theorem infMag_le_roundWide_iff {p q : Nat} (hq : 0 < q) :
    infMag ≤ roundWide p q ↔ (2 ^ 25 - 1) * 2 ^ 252 * q ≤ p := by
  have hmono := magVal_strictMono.monotone
  constructor
  · intro h
    by_contra hlow
    obtain ⟨hle, -⟩ := roundWide_nearest hq (p := p) (infMag - 1)
    have hbig : 2 ^ 24 * 2 ^ 253 * q ≤ magVal (roundWide p q) * q :=
      Nat.mul_le_mul_right q (by rw [← magVal_infMag]; exact hmono h)
    rw [magVal_largest] at hle
    unfold distance at hle
    have hbig' : (2 ^ 24 * 2 ^ 253 : Int) * q ≤ magVal (roundWide p q) * q := by exact_mod_cast hbig
    generalize (magVal (roundWide p q) : Int) * q = W at *
    push_cast at hle
    omega
  · intro h
    by_contra hsmall
    obtain ⟨hle, htie⟩ := roundWide_nearest hq (p := p) infMag
    have hlow : magVal (roundWide p q) * q ≤ (2 ^ 24 - 1) * 2 ^ 253 * q :=
      Nat.mul_le_mul_right q (by rw [← magVal_largest]; exact hmono (by omega))
    have hodd : magVal (roundWide p q) * q = (2 ^ 24 - 1) * 2 ^ 253 * q → roundWide p q % 2 = 1 := fun he => by
      rw [← magVal_largest] at he
      rw [magVal_strictMono.injective (Nat.eq_of_mul_eq_mul_right hq he)]
      decide
    have hdiff : magVal infMag ≠ magVal (roundWide p q) := magVal_strictMono.injective.ne (by omega)
    rw [magVal_infMag] at hle htie hdiff
    unfold distance at hle htie
    push_cast at hle htie
    have hlow' : (magVal (roundWide p q) : Int) * q ≤ (2 ^ 24 - 1) * 2 ^ 253 * q := by
      have : ((magVal (roundWide p q) * q : Nat) : Int) ≤ ((2 ^ 24 - 1) * 2 ^ 253 * q : Nat) := by exact_mod_cast hlow
      push_cast at this
      omega
    have hodd' : (magVal (roundWide p q) : Int) * q = (2 ^ 24 - 1) * 2 ^ 253 * q → roundWide p q % 2 = 1 := fun he => by
      refine hodd ?_
      have : ((magVal (roundWide p q) * q : Nat) : Int) = ((2 ^ 24 - 1) * 2 ^ 253 * q : Nat) := by push_cast; omega
      exact_mod_cast this
    generalize (magVal (roundWide p q) : Int) * q = W at *
    have heven := (htie (by omega)).resolve_left hdiff
    have := hodd' (by omega)
    omega

end Sys2Proof
end

section
/-! PROOFS. Binary32 arithmetic (R150 to R157): rounding, the special operands, the comparisons. -/

namespace Sys2Proof

open Sys2Proof.Machine Sys2Proof.Claims

/-! The machine's rounding is R151's. -/

theorem getLsbD_zero_of_mag_even {x : F32} (h : f32Mag x % 2 = 0) : x.getLsbD 0 = false := by
  rw [f32Mag_eq] at h
  rw [BitVec.getLsbD, Nat.testBit_zero]
  exact decide_eq_false (by omega)

theorem rounds_roundF32 (neg : Bool) (p : Nat) {q : Nat} (hq : 0 < q) : Rounds neg p q (roundF32 neg p q) := by
  have hwide := infMag_le_roundWide_iff hq (p := p)
  have hfin : isFinite (roundF32 neg p q) = true ↔ roundWide p q < infMag := by
    rw [isFinite_iff, roundF32_mag, roundMag_eq_min]
    omega
  refine ⟨roundF32_sign neg p q, roundF32_not_nan neg p q, ?_, fun h x hx => ?_⟩
  · rw [← hwide, Bool.eq_false_iff, ne_eq, hfin, not_lt]
  · have hmag : f32Mag (roundF32 neg p q) = roundWide p q := by
      have := hfin.mp h
      rw [roundF32_mag, roundMag_eq_min]
      omega
    obtain ⟨hle, htie⟩ := roundWide_nearest hq (p := p) (f32Mag x)
    rw [magnitude_eq_magVal, magnitude_eq_magVal, hmag]
    exact ⟨hle, fun he => (htie he).imp id fun heven => getLsbD_zero_of_mag_even (by rw [hmag]; exact heven)⟩

/-! The classes of data (R150, R156). -/

theorem isNaN_iff_fields (x : F32) : isNaN x = true ↔ x.extractLsb' 23 8 = 0xFF#8 ∧ x.extractLsb' 0 23 ≠ 0 := by
  have hexp : f32Exp x = 255 ↔ x.extractLsb' 23 8 = 0xFF#8 := f32Exp_eq_iff x 0xFF#8
  rw [isNaN, Bool.and_eq_true, beq_iff_eq, bne_iff_ne, hexp, ne_eq, f32Frac_eq_zero_iff]

theorem isInf_iff_fields (x : F32) : isInf x = true ↔ x.extractLsb' 23 8 = 0xFF#8 ∧ x.extractLsb' 0 23 = 0 := by
  have hexp : f32Exp x = 255 ↔ x.extractLsb' 23 8 = 0xFF#8 := f32Exp_eq_iff x 0xFF#8
  rw [isInf, Bool.and_eq_true, beq_iff_eq, beq_iff_eq, hexp, f32Frac_eq_zero_iff]

theorem isFinite_iff_fields (x : F32) : isFinite x = true ↔ x.extractLsb' 23 8 ≠ 0xFF#8 := by
  have hexp : f32Exp x = 255 ↔ x.extractLsb' 23 8 = 0xFF#8 := f32Exp_eq_iff x 0xFF#8
  rw [isFinite, bne_iff_ne, ne_eq, hexp]

theorem isZero_iff_fields (x : F32) : isZero x = true ↔ x.extractLsb' 0 31 = 0 := by
  rw [isZero_iff]
  exact BitVec.toNat_inj (x := x.extractLsb' 0 31) (y := 0)

theorem isNaN_of_inf {x : F32} (h : isInf x = true) : isNaN x = false := by
  rw [isInf_iff] at h
  rw [isNaN_eq_false_iff, h]

theorem isZero_of_inf {x : F32} (h : isInf x = true) : isZero x = false := by
  rw [isInf_iff] at h
  rw [Bool.eq_false_iff, ne_eq, isZero_iff, h]
  decide

theorem packF32_infMag (neg : Bool) : packF32 neg infMag = infinity neg := by cases neg <;> decide

theorem packF32_zero (neg : Bool) : packF32 neg 0 = zero neg := by cases neg <;> decide

/-! Finite operands (R152, R154, R155). -/

theorem fadd_rounds {a b : F32} (nan : F32) (ha : isFinite a = true) (hb : isFinite b = true) :
    (value a + value b = 0 → fadd nan a b = zero (a.getLsbD 31 && b.getLsbD 31)) ∧
    (value a + value b ≠ 0 → Rounds (decide (value a + value b < 0)) (value a + value b).natAbs 1 (fadd nan a b)) := by
  rw [fadd_of_finite nan ha hb, value_eq_fixVal, value_eq_fixVal]
  refine ⟨fun h => ?_, fun h => ?_⟩
  · rw [if_pos h]
    show (if (a.getLsbD 31 && b.getLsbD 31) = true then _ else _) = _
    cases a.getLsbD 31 && b.getLsbD 31 <;> rfl
  · rw [if_neg h]
    exact rounds_roundF32 _ _ Nat.one_pos

theorem fmul_of_finite {a b : F32} (nan : F32) (ha : isFinite a = true) (hb : isFinite b = true) :
    fmul nan a b = roundF32 (signOf a b) (fixMag a * fixMag b) (2 ^ 149) := by
  simp only [fmul, finite_not_nan ha, finite_not_nan hb, isInf_eq_false_of_finite ha, isInf_eq_false_of_finite hb,
    Bool.or_self, Bool.false_eq_true, if_false]
  rfl

theorem fmul_rounds {a b : F32} (nan : F32) (ha : isFinite a = true) (hb : isFinite b = true) :
    Rounds (signOf a b) (magnitude a * magnitude b) (2 ^ 149) (fmul nan a b) := by
  rw [fmul_of_finite nan ha hb, magnitude_eq_fixMag, magnitude_eq_fixMag]
  exact rounds_roundF32 _ _ (by decide)

theorem fdiv_rounds {a b : F32} (nan : F32) (ha : isFinite a = true) (hb : isFinite b = true) :
    (isZero b = false → Rounds (signOf a b) (magnitude a * 2 ^ 149) (magnitude b) (fdiv nan a b)) ∧
    (isZero b = true → fdiv nan a b = if isZero a then nan else infinity (signOf a b)) := by
  refine ⟨fun hz => ?_, fun hz => ?_⟩
  · have hpos : 0 < fixMag b := by
      rw [Bool.eq_false_iff, ne_eq, isZero_iff, ← magVal_eq_zero_iff, ← fixMag_eq] at hz
      omega
    rw [fdiv_of_finite nan ha hb hz, magnitude_eq_fixMag, magnitude_eq_fixMag]
    exact rounds_roundF32 _ _ hpos
  · simp only [fdiv, finite_not_nan ha, finite_not_nan hb, isInf_eq_false_of_finite ha, isInf_eq_false_of_finite hb, hz,
      Bool.or_self, Bool.false_eq_true, if_false, if_true, packF32_infMag]
    rfl

/-! Infinities and NaNs (R152 to R156). -/

theorem arithmetic_of_nan {a b : F32} (nan : F32) (h : isNaN a = true ∨ isNaN b = true) :
    fadd nan a b = nan ∧ fmul nan a b = nan ∧ fdiv nan a b = nan := by
  have hor : (isNaN a || isNaN b) = true := by rwa [Bool.or_eq_true]
  simp [fadd, fmul, fdiv, hor]

theorem arithmetic_of_inf_inf {a b : F32} (nan : F32) (ha : isInf a = true) (hb : isInf b = true) :
    fadd nan a b = (if a.getLsbD 31 = b.getLsbD 31 then a else nan) ∧
    fmul nan a b = infinity (signOf a b) ∧ fdiv nan a b = nan := by
  refine ⟨?_, ?_, ?_⟩
  · rw [fadd_of_inf_left nan ha (isNaN_of_inf hb), hb]
    show (if (true && (a.getLsbD 31 != b.getLsbD 31)) = true then nan else a) = _
    cases a.getLsbD 31 <;> cases b.getLsbD 31 <;> rfl
  · simp only [fmul, isNaN_of_inf ha, isNaN_of_inf hb, ha, isZero_of_inf ha, isZero_of_inf hb, Bool.or_self, Bool.true_or,
      Bool.false_eq_true, if_false, if_true, packF32_infMag]
    rfl
  · simp [fdiv, isNaN_of_inf ha, isNaN_of_inf hb, ha, hb]

theorem arithmetic_of_inf_finite {a b : F32} (nan : F32) (ha : isInf a = true) (hb : isFinite b = true) :
    fadd nan a b = a ∧ fmul nan a b = (if isZero b then nan else infinity (signOf a b)) ∧
    fdiv nan a b = infinity (signOf a b) := by
  refine ⟨?_, ?_, ?_⟩
  · rw [fadd_of_inf_left nan ha (finite_not_nan hb), isInf_eq_false_of_finite hb]
    rfl
  · simp only [fmul, isNaN_of_inf ha, finite_not_nan hb, ha, isZero_of_inf ha, Bool.or_self, Bool.true_or, Bool.false_or,
      Bool.false_eq_true, if_false, if_true, packF32_infMag]
    rfl
  · simp only [fdiv, isNaN_of_inf ha, finite_not_nan hb, ha, isInf_eq_false_of_finite hb, Bool.or_self,
      Bool.false_eq_true, if_false, if_true, packF32_infMag]
    rfl

theorem arithmetic_of_finite_inf {a b : F32} (nan : F32) (ha : isFinite a = true) (hb : isInf b = true) :
    fadd nan a b = b ∧ fmul nan a b = (if isZero a then nan else infinity (signOf a b)) ∧
    fdiv nan a b = zero (signOf a b) := by
  refine ⟨fadd_of_inf_right nan ha hb, ?_, ?_⟩
  · simp only [fmul, isNaN_of_inf hb, finite_not_nan ha, hb, isZero_of_inf hb, Bool.or_self, Bool.or_true, Bool.or_false,
      Bool.false_eq_true, if_false, if_true, packF32_infMag]
    rfl
  · rw [fdiv_of_inf_right nan ha hb, packF32_zero]
    rfl

/-! Comparisons (R157). -/

theorem comparisons_of_nan {a b : F32} (h : isNaN a = true ∨ isNaN b = true) :
    flt a b = false ∧ fle a b = false ∧ fgt a b = false ∧ fge a b = false ∧ feq a b = false ∧ fne a b = true := by
  rcases h with h | h <;> simp [flt, fle, fgt, fge, feq, fne, h]

theorem feq_value {a b : F32} (ha : isNaN a = false) (hb : isNaN b = false) : feq a b = true ↔ fixVal a = fixVal b := by
  have hlt := key_lt_iff a b
  have hgt := key_lt_iff b a
  rw [feq, ha, hb, Bool.not_false, Bool.and_self, Bool.true_and, decide_eq_true_iff]
  omega

theorem comparisons_of_value {a b : F32} (ha : isNaN a = false) (hb : isNaN b = false) :
    flt a b = decide (value a < value b) ∧ fle a b = decide (value a ≤ value b) ∧
    fgt a b = decide (value b < value a) ∧ fge a b = decide (value b ≤ value a) ∧
    feq a b = decide (value a = value b) ∧ fne a b = decide (value a ≠ value b) := by
  have hdec {x : Bool} {P : Prop} [Decidable P] (h : x = true ↔ P) : x = decide P := by
    rw [Bool.eq_iff_iff, h, decide_eq_true_iff]
  rw [value_eq_fixVal, value_eq_fixVal]
  refine ⟨hdec (flt_value ha hb), hdec (fle_value ha hb), hdec (flt_value hb ha), hdec (fle_value hb ha),
    hdec (feq_value ha hb), hdec ?_⟩
  rw [fne, Bool.not_eq_true', ne_eq, ← feq_value ha hb, Bool.not_eq_true]

/-- Settles O52. -/
theorem arithmeticRoundsToNearestEven : Obligations.ArithmeticRoundsToNearestEven :=
  ⟨fun x => ⟨isNaN_iff_fields x, isInf_iff_fields x, isFinite_iff_fields x, isZero_iff_fields x⟩,
    fun nan _ _ ha hb => ⟨(fadd_rounds nan ha hb).1, (fadd_rounds nan ha hb).2, fmul_rounds nan ha hb,
      (fdiv_rounds nan ha hb).1, (fdiv_rounds nan ha hb).2⟩,
    fun nan _ _ => ⟨rfl, arithmetic_of_nan nan, arithmetic_of_inf_inf nan, arithmetic_of_inf_finite nan,
      arithmetic_of_finite_inf nan⟩,
    fun _ _ => ⟨comparisons_of_nan, comparisons_of_value⟩⟩

end Sys2Proof
end

section
/-! PROOFS. The derived primitives (R160 to R166), and PREPARE's rate (R164, R341). -/

namespace Sys2Proof

open Sys2Proof.Machine Sys2Proof.Claims

/-! clamp (R160). -/

theorem clamp_of_nan {x : F32} (h : isNaN x = true) (lo hi : F32) : clamp x lo hi = lo := if_pos h

theorem clamp_of_below {x lo : F32} (h : flt x lo = true) (hi : F32) : clamp x lo hi = lo :=
  (if_neg (by rw [(not_nan_of_flt h).1]; decide)).trans (if_pos h)

theorem clamp_of_above {x lo hi : F32} (hr : fle lo hi = true) (h : fgt x hi = true) : clamp x lo hi = hi := by
  have hnot : ¬flt x lo = true := fun hlt => by
    have h1 := ((flt_iff_value _ _).mp h).2.2
    have h2 := ((flt_iff_value _ _).mp hlt).2.2
    have h3 := ((fle_iff_value _ _).mp hr).2.2
    omega
  exact (if_neg (by rw [(not_nan_of_flt h).2]; decide)).trans ((if_neg hnot).trans (if_pos h))

theorem clamp_of_range {x lo hi : F32} (hlo : fle lo x = true) (hhi : fle x hi = true) : clamp x lo hi = x := by
  have h1 := ((fle_iff_value _ _).mp hlo).2.2
  have h2 := ((fle_iff_value _ _).mp hhi).2.2
  have hbelow : ¬flt x lo = true := fun h => by
    have := ((flt_iff_value _ _).mp h).2.2
    omega
  have habove : ¬fgt x hi = true := fun h => by
    have := ((flt_iff_value _ _).mp h).2.2
    omega
  exact (if_neg (by rw [(not_nan_of_fle hlo).2]; decide)).trans ((if_neg hbelow).trans (if_neg habove))

theorem clamp_isFinite {x lo hi : F32} (hlo : isFinite lo = true) (hhi : isFinite hi = true) (h : fle lo hi = true) :
    isFinite (clamp x lo hi) = true :=
  isFinite_of_fle (clamp_range h).1 (clamp_range h).2 hlo hhi

/-! floor32 (R162). -/

theorem floor32_of_integral {x : F32} (nan : F32) (h : isNaN x = false) (hx : 150 ≤ f32Exp x ∨ isZero x = true) :
    floor32 nan x = x := by
  unfold floor32
  rw [h]
  rcases hx with hx | hx
  · simp [hx]
  · simp [hx]

theorem exp_of_inf {x : F32} (h : isInf x = true) : 150 ≤ f32Exp x := by
  rw [isInf_iff] at h
  rw [f32Exp_eq, h]
  decide

/-- A magnitude from its fields. -/
theorem fixMag_of_normal {x : F32} (h : f32Exp x ≠ 0) : fixMag x = (2 ^ 23 + f32Frac x) * 2 ^ (f32Exp x - 1) := if_neg h

theorem f32Frac_lt (x : F32) : f32Frac x < 2 ^ 23 := (x.extractLsb' 0 23).isLt

/-- Below exponent 150 a datum is below 2^23. -/
theorem fixMag_lt_of_exp {x : F32} (h : f32Exp x < 150) : fixMag x < 2 ^ 23 * 2 ^ 149 := by
  have hfrac := f32Frac_lt x
  unfold fixMag
  split
  · omega
  · calc (2 ^ 23 + f32Frac x) * 2 ^ (f32Exp x - 1) < 2 ^ 24 * 2 ^ (f32Exp x - 1) :=
          Nat.mul_lt_mul_of_pos_right (by omega) (by positivity)
      _ ≤ 2 ^ 24 * 2 ^ 148 := Nat.mul_le_mul_left _ (Nat.pow_le_pow_right (by norm_num) (by omega))
      _ = 2 ^ 23 * 2 ^ 149 := by norm_num

/-- From exponent 150 on a datum is a whole number. -/
theorem dvd_fixMag_of_exp {x : F32} (h : 150 ≤ f32Exp x) : 2 ^ 149 ∣ fixMag x := by
  rw [fixMag_of_normal (by omega)]
  exact (Nat.pow_dvd_pow 2 (by omega)).mul_left _

/-- A whole number of at most 2^23 is a finite datum. -/
theorem magVal_of_whole {n : Nat} (h : n ≤ 2 ^ 23) : ∃ m, m < infMag ∧ magVal m = n * 2 ^ 149 := by
  rcases Nat.eq_zero_or_pos n with h0 | h0
  · exact ⟨0, by decide, by rw [h0]; decide⟩
  · have hlog : n.log2 ≤ 23 := by
      by_contra hlog
      have := (Nat.le_log2 (by omega)).mp (show 24 ≤ n.log2 by omega)
      omega
    have hlow := Nat.log2_self_le (n := n) (by omega)
    have hup := Nat.lt_log2_self (n := n)
    generalize n.log2 = l at *
    obtain ⟨t, ht⟩ : ∃ t, t + l = 23 := ⟨23 - l, by omega⟩
    have h23 : 2 ^ t * 2 ^ l = 2 ^ 23 := by rw [← pow_add, ht]
    have h1 : 2 ^ 23 ≤ n * 2 ^ t := by rw [← h23, mul_comm]; exact Nat.mul_le_mul_right _ hlow
    have h2 : n * 2 ^ t ≤ 2 ^ 24 := by
      calc n * 2 ^ t ≤ 2 ^ (l + 1) * 2 ^ t := Nat.mul_le_mul_right _ hup.le
        _ = 2 ^ 24 := by rw [← pow_add, show l + 1 + t = 24 by omega]
    refine ⟨(149 - t) * 2 ^ 23 + n * 2 ^ t, by unfold infMag; omega, ?_⟩
    rw [magVal_scaled h1 h2, mul_assoc, ← pow_add, show t + (149 - t) = 149 by omega]

/-- A whole number of magnitude at most 2^23 rounds to itself. -/
theorem roundF32_whole {z : Int} (h : z.natAbs ≤ 2 ^ 23) :
    isFinite (roundF32 (decide (z < 0)) (z.natAbs * 2 ^ 149) 1) = true ∧
    fixVal (roundF32 (decide (z < 0)) (z.natAbs * 2 ^ 149) 1) = z * 2 ^ 149 := by
  obtain ⟨m, hm, hval⟩ := magVal_of_whole h
  have hround : roundMag (z.natAbs * 2 ^ 149) 1 = m := by
    have := roundMag_exact Nat.one_pos hm.le
    rwa [hval, mul_one] at this
  rw [isFinite_iff, roundF32_mag, fixVal_roundF32, hround, hval]
  refine ⟨hm, ?_⟩
  unfold signedNum
  split <;> rename_i hs <;> simp only [decide_eq_true_eq] at hs <;> omega

/-- floor32 of a finite datum is the largest whole number not above it. -/
theorem floor32_finite (nan : F32) {x : F32} (h : isFinite x = true) : isFinite (floor32 nan x) = true ∧
    ∃ z : Int, fixVal (floor32 nan x) = z * 2 ^ 149 ∧ z * 2 ^ 149 ≤ fixVal x ∧ fixVal x < (z + 1) * 2 ^ 149 := by
  have hnan := finite_not_nan h
  by_cases hexp : 150 ≤ f32Exp x
  · rw [floor32_of_integral nan hnan (.inl hexp)]
    obtain ⟨z, hz⟩ : (2 ^ 149 : Int) ∣ fixVal x := by
      have := dvd_fixMag_of_exp hexp
      rw [← natAbs_fixVal] at this
      exact Int.natCast_dvd.mpr this
    exact ⟨h, z, by omega, by omega, by omega⟩
  · by_cases hzero : isZero x = true
    · rw [floor32_of_integral nan hnan (.inr hzero)]
      have := (fixVal_eq_zero_iff x).mpr ((isZero_iff x).mp hzero)
      exact ⟨h, 0, by omega, by omega, by omega⟩
    · have hmag := fixMag_lt_of_exp (not_le.mp hexp)
      rw [← natAbs_fixVal] at hmag
      have hfloor : floor32 nan x =
          roundF32 (decide (fixVal x / 2 ^ 149 < 0)) ((fixVal x / 2 ^ 149).natAbs * 2 ^ 149) 1 := by
        unfold floor32
        rw [hnan, if_neg (by decide), if_neg hexp, if_neg hzero]
      obtain ⟨hfin, hval⟩ := roundF32_whole (z := fixVal x / 2 ^ 149) (by omega)
      rw [hfloor]
      exact ⟨hfin, fixVal x / 2 ^ 149, hval, by omega, by omega⟩

/-! f2i (R163). -/

theorem fixVal_two_pow_32 : fixVal 0x4F800000#32 = 2 ^ 32 * 2 ^ 149 := rfl

theorem f2i_of_nonpositive {x : F32} (h : fle x 0x00000000#32 = true) : f2i x = 0 := by
  obtain ⟨hnan, -, hle⟩ := (fle_iff_value _ _).mp h
  change fixVal x ≤ fixVal fZero at hle
  rw [fixVal_zero] at hle
  cases hs : f32Sign x with
  | true => simp [f2i, hs]
  | false =>
    rw [fixVal_eq_fixMag hs] at hle
    have hmag : fixMag x = 0 := by omega
    have hinf : isInf x = false := by
      rw [fixMag_eq, magVal_eq_zero_iff] at hmag
      rw [Bool.eq_false_iff, ne_eq, isInf_iff, hmag]
      decide
    simp [f2i, hnan, hs, hinf, hmag]

/-- What f2i gives for a number with no sign. -/
theorem f2i_of_positive {x : F32} (h : isNaN x = false) (hs : f32Sign x = false) : f2i x =
    if isInf x = true then 0xFFFFFFFF#32
    else if 2 ^ 32 ≤ fixMag x / 2 ^ 149 then 0xFFFFFFFF#32 else BitVec.ofNat 32 (fixMag x / 2 ^ 149) := by
  rw [f2i, h, hs]
  rfl

theorem f2i_of_large {x : F32} (h : fge x 0x4F800000#32 = true) : f2i x = 0xFFFFFFFF#32 := by
  obtain ⟨-, hnan, hle⟩ := (fle_iff_value _ _).mp h
  rw [fixVal_two_pow_32] at hle
  have hpos : flt fZero x = true := (flt_iff_value _ _).mpr ⟨by decide, hnan, by rw [fixVal_zero]; omega⟩
  obtain ⟨-, hs, -⟩ := (positive_iff x).mp hpos
  rw [fixVal_eq_fixMag hs] at hle
  rw [f2i_of_positive hnan hs, if_pos (show 2 ^ 32 ≤ fixMag x / 2 ^ 149 by omega), ite_self]

theorem f2i_of_between {x : F32} (h0 : flt 0x00000000#32 x = true) (h1 : flt x 0x4F800000#32 = true) :
    (f2i x).toNat * 2 ^ 149 ≤ fixMag x ∧ fixMag x < ((f2i x).toNat + 1) * 2 ^ 149 := by
  obtain ⟨hnan, hs, -⟩ := (positive_iff x).mp h0
  obtain ⟨-, -, hlt⟩ := (flt_iff_value _ _).mp h1
  rw [fixVal_two_pow_32, fixVal_eq_fixMag hs] at hlt
  have hinf : ¬isInf x = true := fun hi => by
    have hval : fixMag x = 2 ^ 24 * 2 ^ 253 := by rw [fixMag_eq, (isInf_iff x).mp hi, magVal_infMag]
    omega
  rw [f2i_of_positive hnan hs, if_neg hinf, if_neg (by omega), BitVec.toNat_ofNat]
  omega

/-! f64_to_f32 (R164). -/

theorem magnitude64_eq_fixMag64 (d : F64) : magnitude64 d = fixMag64 d := by
  have hexp : f64Exp d = 0 ↔ d.extractLsb' 52 11 = 0 := BitVec.toNat_inj (x := d.extractLsb' 52 11) (y := 0)
  unfold magnitude64 fixMag64
  by_cases h : d.extractLsb' 52 11 = 0
  · rw [if_pos h, if_pos (hexp.mpr h)]; rfl
  · rw [if_neg h, if_neg (mt hexp.mp h)]; rfl

theorem f64ToF32_rounds (nan : F32) {d : F64} (h : d.extractLsb' 52 11 ≠ 0x7FF#11) :
    Rounds (d.getLsbD 63) (magnitude64 d) (2 ^ 925) (f64ToF32 nan d) := by
  have hexp : ¬f64Exp d = 2047 := fun he => h (BitVec.eq_of_toNat_eq he)
  have hnan : isNaN64 d = false := by rw [isNaN64, beq_eq_false_iff_ne.mpr hexp]; rfl
  have hq : 0 < 2 ^ 925 := by positivity
  rw [f64ToF32, hnan, if_neg (by decide), if_neg hexp, magnitude64_eq_fixMag64]
  generalize 2 ^ 925 = q at *
  exact rounds_roundF32 _ _ hq

/-- Settles O53. -/
theorem clampAndWrapStayInRange : Obligations.ClampAndWrapStayInRange := by
  refine ⟨fun x lo hi hlo hhi h => ⟨clamp_isFinite hlo hhi h, (clamp_range h).1, (clamp_range h).2,
      fun hn => clamp_of_nan hn lo hi, fun hb => clamp_of_below hb hi, clamp_of_above h, clamp_of_range⟩,
    fun nan x => ⟨fun h => if_pos h, ?integral, ?large, ?finite⟩,
    fun x => ⟨?nan, f2i_of_nonpositive, f2i_of_large, ?between⟩, fun nan d h => f64ToF32_rounds nan h,
    fun nan x => ⟨rfl, wrap_inPhase nan x⟩⟩
  case integral =>
    rintro (h | h)
    · exact floor32_of_integral nan (isNaN_of_inf h) (.inl (exp_of_inf h))
    · have hnan : isNaN x = false := by
        rw [isZero_iff] at h
        rw [isNaN_eq_false_iff, h]
        decide
      exact floor32_of_integral nan hnan (.inr h)
  case large =>
    intro h hmag
    rw [magnitude_eq_fixMag] at hmag
    refine floor32_of_integral nan (finite_not_nan h) (.inl (not_lt.mp fun hexp => ?_))
    have := fixMag_lt_of_exp hexp
    omega
  case finite =>
    intro h
    rw [value_eq_fixVal, value_eq_fixVal]
    exact floor32_finite nan h
  case nan =>
    intro h
    simp [f2i, h]
  case between =>
    intro h0 h1
    rw [magnitude_eq_fixMag]
    exact f2i_of_between h0 h1

/-! PREPARE (R341). -/

theorem preparedState_frame (s : State) : preparedState s =
    { s with fs := f64ToF32 (s.nan 0) (rateOperand s),
             blockSize := BitVec.ofNat Config.params.blockBits (blockSizeOperand s),
             op := Vector.replicate 6 Operator.zero, opout := Vector.replicate 6 fZero,
             env := Vector.ofFn fun e => killedEnv s.env[e], lph := Vector.replicate 2 fZero,
             vstate := .idle, done := false, prepared := true } := by
  rw [preparedState, prepareVoice_eq]

/-- Settles O37. -/
theorem prepareInitialisesTheVoice : Obligations.PrepareInitialisesTheVoice := by
  intro s hnan hmin hmax h1 h2
  have hrate : rateBad (rateOperand s) = false := rateBad_eq_false hnan hmin hmax
  have hsize : blockSizeBad (blockSizeOperand s) = false := by
    rw [← Bool.not_eq_true, blockSizeBad_iff]
    show ¬(s.arg2.toNat < 1 ∨ 4096 < s.arg2.toNat)
    omega
  obtain ⟨hlo, hhi, hbits, -, -⟩ := preparedOk_of_legal hrate hsize
  refine ⟨preparedState s, exec_prepare_of_legal hrate hsize, ?_⟩
  rw [preparedState_frame]
  refine ⟨?rate, isFinite_of_fle hlo hhi (by decide) (by decide), hbits, fun i => ⟨?op, getElem_replicate_fin _ i⟩,
    fun e => getElem_ofFn_fin _ e, fun k => getElem_replicate_fin _ k, rfl, rfl, rfl, rfl, fun _ => rfl⟩
  case rate =>
    have hround := f64ToF32_of_legal (s.nan 0) hrate
    have hq : 0 < 2 ^ 925 := by positivity
    show Rounds false (magnitude64 (rateOperand s)) (2 ^ 925) (f64ToF32 (s.nan 0) (rateOperand s))
    rw [hround, magnitude64_eq_fixMag64]
    generalize 2 ^ 925 = q at *
    exact rounds_roundF32 _ _ hq
  case op => exact operatorCleared_of_op_eq_zero (getElem_replicate_fin _ i)

end Sys2Proof
end

section
/-! PROOFS. The properties of the transcendental units (R170 to R172): range, symmetry, zero, accuracy, monotony. -/

namespace Sys2Proof

open Sys2Proof.Machine Sys2Proof.Claims

/-! Odd functions of a sign and a magnitude. -/

theorem isZero_fneg (x : F32) : isZero (fneg x) = isZero x := by
  rw [Bool.eq_iff_iff, isZero_iff, isZero_iff, fneg_mag]

theorem fabs_fneg (x : F32) : fabs (fneg x) = fabs x :=
  f32_ext (by rw [fabs_sign, fabs_sign]) (by rw [fabs_mag, fabs_mag, fneg_mag])

theorem withSignOf_fneg (x m : F32) : withSignOf (fneg x) m = fneg (withSignOf x m) := by
  unfold withSignOf
  rw [fneg_sign]
  cases f32Sign x
  · rfl
  · exact (fneg_fneg m).symm

/-- A magnitude near an odd function of the operand's magnitude, given the operand's sign, is as near the function of the
operand. -/
theorem withSignOf_near {F : ℝ → ℝ} (hodd : ∀ t, F (-t) = -F t) {x m : F32} {e : ℝ}
    (h : |(fixVal m : ℝ) - unitR * F ((fixMag x : ℝ) / unitR)| ≤ e) :
    |(value (withSignOf x m) : ℝ) / 2 ^ 149 - F ((value x : ℝ) / 2 ^ 149)| ≤ e / unitR := by
  have hU := unitR_pos
  have hscaled : |(fixVal m : ℝ) / unitR - F ((fixMag x : ℝ) / unitR)| ≤ e / unitR := by
    have : (fixVal m : ℝ) / unitR - F ((fixMag x : ℝ) / unitR) =
        ((fixVal m : ℝ) - unitR * F ((fixMag x : ℝ) / unitR)) / unitR := by field_simp
    rw [this, abs_div, abs_of_pos hU]
    exact div_le_div_of_nonneg_right h hU.le
  rw [value_eq_fixVal, value_eq_fixVal, fixVal_withSign]
  show |_ / unitR - F (_ / unitR)| ≤ _
  cases hs : f32Sign x with
  | false =>
    rw [fixVal_eq_fixMag hs, if_neg (by decide), Int.cast_natCast]
    exact hscaled
  | true =>
    have hx : fixVal x = -(fixMag x : Int) := by rw [fixVal, hs]; rfl
    rw [if_pos rfl, hx, Int.cast_neg, Int.cast_neg, Int.cast_natCast, neg_div, neg_div, hodd]
    rwa [show -((fixVal m : ℝ) / unitR) - -F ((fixMag x : ℝ) / unitR) =
      -((fixVal m : ℝ) / unitR - F ((fixMag x : ℝ) / unitR)) by ring, abs_neg]

theorem value_of_zero {x : F32} (h : isZero x = true) : value x = 0 := by
  rw [value_eq_fixVal, fixVal_eq_zero_iff]
  exact (isZero_iff x).mp h

/-! sin32 (R170). -/

theorem sin32_of_not_finite (nan : F32) {x : F32} (h : isFinite x = false) : sin32 nan x = nan := by
  simp [sin32, h]

theorem sin32_of_zero (nan : F32) {x : F32} (h : isFinite x = true) (hz : isZero x = true) : sin32 nan x = x := by
  simp [sin32, h, hz]

theorem sin32_of_nonzero (nan : F32) {x : F32} (h : isFinite x = true) (hz : isZero x = false) :
    sin32 nan x = withSignOf x (clamp (sinUnit (fabs x)) fNegOne fOne) := by
  simp [sin32, h, hz]

theorem sin32_isNaN_iff {nan : F32} (hnan : isNaN nan = true) (x : F32) :
    isNaN (sin32 nan x) = true ↔ isFinite x = false := by
  cases h : isFinite x with
  | false => rw [sin32_of_not_finite nan h]; simp [hnan]
  | true =>
    have := (not_nan_of_fle (sin32_range nan h).1).2
    simp [this]

theorem sin32_odd (nan : F32) {x : F32} (h : isFinite x = true) : sin32 nan (fneg x) = fneg (sin32 nan x) := by
  have hneg : isFinite (fneg x) = true := by rwa [isFinite_fneg]
  cases hz : isZero x with
  | true => rw [sin32_of_zero nan hneg (by rwa [isZero_fneg]), sin32_of_zero nan h hz]
  | false =>
    rw [sin32_of_nonzero nan hneg (by rwa [isZero_fneg]), sin32_of_nonzero nan h hz, fabs_fneg, withSignOf_fneg]

theorem fixVal_one : fixVal fOne = 2 ^ 149 := rfl

theorem fixVal_negOne : fixVal fNegOne = -2 ^ 149 := rfl

theorem sin32_near (nan : F32) {x : F32} (h : fle (fabs x) 0x42800000#32 = true) :
    |(value (sin32 nan x) : ℝ) / 2 ^ 149 - Real.sin ((value x : ℝ) / 2 ^ 149)| ≤ 1 / 2 ^ 24 := by
  obtain ⟨hn, -, h64⟩ := (fle_iff_value _ _).mp h
  rw [fixVal_fabs, show fixVal (0x42800000#32 : F32) = 64 * 2 ^ 149 from rfl] at h64
  have hmag : fixMag (fabs x) ≤ 64 * unitOne := by
    rw [fixMag_fabs]
    have : ((64 * unitOne : Nat) : Int) = 64 * 2 ^ 149 := by unfold unitOne; push_cast
    omega
  have hfin : isFinite x = true := by
    have := isFinite_of_fle (a := fabs x) (lo := fZero) ((fle_iff_value _ _).mpr
      ⟨by decide, hn, by rw [fixVal_zero, fixVal_fabs]; omega⟩) h (by decide) (by decide)
    rwa [isFinite_iff, fabs_mag, ← isFinite_iff] at this
  cases hz : isZero x with
  | true =>
    rw [sin32_of_zero nan hfin hz, value_of_zero hz]
    norm_num
  | false =>
    obtain ⟨hnan, hnear⟩ := sinUnit_near (x := fabs x) h hmag
    rw [fixMag_fabs] at hnear
    have hclamp := clamp_near (lo := fNegOne) (hi := fOne) hnan (by decide) (by decide)
      (t := unitR * Real.sin ((fixMag x : ℝ) / unitR)) (by
        rw [fixVal_negOne]; push_cast
        have := Real.neg_one_le_sin ((fixMag x : ℝ) / unitR)
        unfold unitR at *; nlinarith) (by
        rw [fixVal_one]; push_cast
        have := Real.sin_le_one ((fixMag x : ℝ) / unitR)
        unfold unitR at *; nlinarith) hnear
    rw [sin32_of_nonzero nan hfin hz]
    refine (withSignOf_near Real.sin_neg hclamp).trans (le_of_eq ?_)
    unfold unitR
    norm_num

/-! asin32 (R171). -/

/-- The operands asin32 has a value for (R171 (A1)). -/
theorem asin_domain {x : F32} (hlo : fle 0xBF800000#32 x = true) (hhi : fle x 0x3F800000#32 = true) :
    isNaN x = false ∧ fgt (fabs x) fOne = false ∧ fixMag x ≤ unitOne := by
  obtain ⟨-, hn, h1⟩ := (fle_iff_value _ _).mp hlo
  obtain ⟨-, -, h2⟩ := (fle_iff_value _ _).mp hhi
  change fixVal fNegOne ≤ _ at h1
  change _ ≤ fixVal fOne at h2
  rw [fixVal_negOne] at h1
  rw [fixVal_one] at h2
  have hmag := natAbs_fixVal x
  have hone : unitOne = 2 ^ 149 := rfl
  refine ⟨hn, ?_, by omega⟩
  rw [fgt, Bool.eq_false_iff]
  intro h
  obtain ⟨-, -, h⟩ := (flt_iff_value _ _).mp h
  rw [fixVal_fabs, fixVal_one] at h
  omega

theorem asin32_of_outside (nan : F32) {x : F32} (h : isNaN x = true ∨ fgt (fabs x) fOne = true) : asin32 nan x = nan := by
  rw [asin32, if_pos (by rwa [Bool.or_eq_true])]

theorem asin32_of_zero (nan : F32) {x : F32} (h : isNaN x = false) (h1 : fgt (fabs x) fOne = false)
    (hz : isZero x = true) : asin32 nan x = x := by
  simp [asin32, h, h1, hz]

theorem asin32_of_nonzero (nan : F32) {x : F32} (h : isNaN x = false) (h1 : fgt (fabs x) fOne = false)
    (hz : isZero x = false) : asin32 nan x = withSignOf x (clamp (asinUnit (fabs x)) fNegHalfPi fHalfPi) := by
  simp [asin32, h, h1, hz]

theorem fNegHalfPi_eq : fNegHalfPi = fneg fHalfPi := by decide

theorem asin32_range (nan : F32) {x : F32} (h : isNaN x = false) (h1 : fgt (fabs x) fOne = false) :
    fle fNegHalfPi (asin32 nan x) = true ∧ fle (asin32 nan x) fHalfPi = true := by
  rw [fNegHalfPi_eq]
  cases hz : isZero x with
  | true =>
    rw [asin32_of_zero nan h h1 hz]
    exact zero_range hz (by decide)
  | false =>
    rw [asin32_of_nonzero nan h h1 hz, fNegHalfPi_eq]
    obtain ⟨hlo, hhi⟩ := clamp_range (x := asinUnit (fabs x)) (show fle (fneg fHalfPi) fHalfPi = true by decide)
    exact withSignOf_range x hlo hhi

theorem asin32_isNaN_iff {nan : F32} (hnan : isNaN nan = true) (x : F32) :
    isNaN (asin32 nan x) = true ↔ isNaN x = true ∨ fgt (fabs x) 0x3F800000#32 = true := by
  by_cases h : isNaN x = true ∨ fgt (fabs x) fOne = true
  · rw [asin32_of_outside nan h]
    exact iff_of_true hnan h
  · refine iff_of_false ?_ h
    rw [not_or, Bool.not_eq_true, Bool.not_eq_true] at h
    rw [Bool.not_eq_true]
    exact (not_nan_of_fle (asin32_range nan h.1 h.2).1).2

theorem asin32_odd (nan : F32) {x : F32} (h : isNaN x = false) (h1 : fgt (fabs x) fOne = false) :
    asin32 nan (fneg x) = fneg (asin32 nan x) := by
  have hn : isNaN (fneg x) = false := by rwa [isNaN_fneg]
  have hn1 : fgt (fabs (fneg x)) fOne = false := by rwa [fabs_fneg]
  cases hz : isZero x with
  | true => rw [asin32_of_zero nan hn hn1 (by rwa [isZero_fneg]), asin32_of_zero nan h h1 hz]
  | false =>
    rw [asin32_of_nonzero nan hn hn1 (by rwa [isZero_fneg]), asin32_of_nonzero nan h h1 hz, fabs_fneg, withSignOf_fneg]

theorem asin32_near (nan : F32) {x : F32} (h : isNaN x = false) (h1 : fgt (fabs x) fOne = false) (hmag : fixMag x ≤ unitOne) :
    |(value (asin32 nan x) : ℝ) / 2 ^ 149 - Real.arcsin ((value x : ℝ) / 2 ^ 149)| ≤ 1 / 2 ^ 23 := by
  cases hz : isZero x with
  | true =>
    rw [asin32_of_zero nan h h1 hz, value_of_zero hz]
    norm_num
  | false =>
    obtain ⟨hnan, hnear⟩ := asinUnit_near (x := fabs x) (by rwa [fixMag_fabs])
    rw [fixMag_fabs] at hnear
    have hU := unitR_pos
    have hhalf : fixVal fHalfPi = halfPiMag := by rw [fixVal_eq_fixMag (by decide), fHalfPi_mag]
    have hneg : fixVal fNegHalfPi = -(halfPiMag : Int) := by
      rw [show fNegHalfPi = fneg fHalfPi by decide, fixVal_fneg, hhalf]
    have harc0 : 0 ≤ Real.arcsin ((fixMag x : ℝ) / unitR) := Real.arcsin_nonneg.mpr (asin_bounds hmag).1
    have harc1 : unitR * Real.arcsin ((fixMag x : ℝ) / unitR) ≤ halfPiMag := by
      have hle := (Real.arcsin_le_pi_div_two ((fixMag x : ℝ) / unitR)).trans halfPi_high
      rwa [le_div_iff₀ hU, mul_comm] at hle
    have hclamp := clamp_near (lo := fNegHalfPi) (hi := fHalfPi) hnan (by decide) (by decide)
      (t := unitR * Real.arcsin ((fixMag x : ℝ) / unitR)) (by
        rw [hneg]; push_cast
        have : (0 : ℝ) ≤ halfPiMag := Nat.cast_nonneg _
        nlinarith) (by rw [hhalf]; exact_mod_cast harc1) hnear
    rw [asin32_of_nonzero nan h h1 hz]
    refine (withSignOf_near Real.arcsin_neg hclamp).trans (le_of_eq ?_)
    unfold unitR
    norm_num

/-! tan32 (R172). -/

theorem tan32_of_zero {x : F32} (h0 : fle fZero x = true) (h1 : fle x fTanDomain = true) (hz : isZero x = true) :
    tan32 x = x := by
  simp [tan32, h0, h1, hz]

theorem tan32_of_nonzero {x : F32} (h0 : fle fZero x = true) (h1 : fle x fTanDomain = true) (hz : isZero x = false) :
    tan32 x = clamp (tanUnit x) fZero fTanMax := by
  simp [tan32, h0, h1, hz]

/-- A word without a sign, as a datum. -/
theorem fixVal_ofNat {m : Nat} (h : m < 2 ^ 31) : fixVal (BitVec.ofNat 32 m) = magVal m := by
  obtain ⟨hmag, hsign⟩ := ofNat_mag h
  rw [fixVal_eq, hmag, hsign]
  rfl

theorem isNaN_ofNat {m : Nat} (h : m ≤ tanMaxWord) : isNaN (BitVec.ofNat 32 m) = false := by
  have hmax : tanMaxWord ≤ infMag := by decide
  rw [isNaN_eq_false_iff, (ofNat_mag (lt_of_le_of_lt (h.trans hmax) infMag_lt)).1]
  exact h.trans hmax

theorem fixVal_ofNat_tan {m : Nat} (h : m ≤ tanMaxWord) : fixVal (BitVec.ofNat 32 m) = magVal m :=
  fixVal_ofNat (lt_of_le_of_lt h (by decide))

/-- Words of tangents are ordered as numbers are. -/
theorem fle_ofNat {m n : Nat} (h : m ≤ n) (hn : n ≤ tanMaxWord) : fle (BitVec.ofNat 32 m) (BitVec.ofNat 32 n) = true := by
  rw [fle_iff_value, fixVal_ofNat_tan (h.trans hn), fixVal_ofNat_tan hn]
  exact ⟨isNaN_ofNat (h.trans hn), isNaN_ofNat hn, by exact_mod_cast magVal_strictMono.monotone h⟩

/-- The word of the tangent of a positive operand: what the search finds, and it is accurate. -/
theorem tan32_of_positive {x : F32} (h0 : fle fZero x = true) (h1 : fle x fTanDomain = true) (hpos : 0 < fixMag x)
    (hmag : fixMag x ≤ tanDomainMag) : ∃ m, tan32 x = BitVec.ofNat 32 m ∧ m ≤ tanMaxWord ∧
      m = searchBits (tanPred (fixMag x)) 31 0 ∧
      |(magVal m : ℝ) - unitR * Real.tan ((fixMag x : ℝ) / unitR)|
        ≤ unitR * Real.tan ((fixMag x : ℝ) / unitR) / 2 ^ 23 := by
  obtain ⟨m, hunit, hmax, hsearch, hnear⟩ := tanUnit_near hpos hmag
  have hz : isZero x = false := by
    rw [Bool.eq_false_iff, ne_eq, isZero_iff, ← magVal_eq_zero_iff, ← fixMag_eq]
    omega
  refine ⟨m, ?_, hmax, hsearch, hnear⟩
  have hlo : fle fZero (BitVec.ofNat 32 m) = true := fle_ofNat (m := 0) (Nat.zero_le m) hmax
  have hhi : fle (BitVec.ofNat 32 m) fTanMax = true := fle_ofNat hmax (le_refl tanMaxWord)
  rw [tan32_of_nonzero h0 h1 hz, hunit, clamp_of_range hlo hhi]

theorem tan32_range {x : F32} (h0 : fle fZero x = true) (h1 : fle x fTanDomain = true) :
    fle fZero (tan32 x) = true ∧ fle (tan32 x) fTanMax = true := by
  obtain ⟨hz | ⟨-, hpos⟩, hmag, -⟩ := tan_domain h0 h1
  · rw [tan32_of_zero h0 h1 hz]
    exact ⟨h0, (zero_range hz (by decide)).2⟩
  · obtain ⟨m, htan, hmax, -⟩ := tan32_of_positive h0 h1 hpos hmag
    rw [htan]
    exact ⟨fle_ofNat (m := 0) (Nat.zero_le m) hmax, fle_ofNat hmax (le_refl tanMaxWord)⟩

theorem tan32_mono {x y : F32} (h0 : fle fZero x = true) (hxy : fle x y = true) (h1 : fle y fTanDomain = true) :
    fle (tan32 x) (tan32 y) = true := by
  have hx1 := fle_trans hxy h1
  have hy0 := fle_trans h0 hxy
  obtain ⟨hz | ⟨hsx, hpos⟩, hmag, -⟩ := tan_domain h0 hx1
  · rw [tan32_of_zero h0 hx1 hz]
    exact fle_trans (zero_range hz (hi := fZero) (by decide)).2 (tan32_range hy0 h1).1
  · obtain ⟨-, -, hle⟩ := (fle_iff_value _ _).mp hxy
    obtain ⟨-, hmagy, -⟩ := tan_domain hy0 h1
    have hmono : fixMag x ≤ fixMag y := by
      rw [fixVal_eq_fixMag hsx] at hle
      have := natAbs_fixVal y
      omega
    obtain ⟨m, hm, -, hms, -⟩ := tan32_of_positive h0 hx1 hpos hmag
    obtain ⟨n, hn, hnmax, hns, -⟩ := tan32_of_positive hy0 h1 (lt_of_lt_of_le hpos hmono) hmagy
    rw [hm, hn]
    exact fle_ofNat (by rw [hms, hns]; exact tanPred_search_mono hpos hmono hmagy) hnmax

theorem tan32_near {x : F32} (h0 : fle fZero x = true) (h1 : fle x fTanDomain = true) :
    |(value (tan32 x) : ℝ) / 2 ^ 149 - Real.tan ((value x : ℝ) / 2 ^ 149)|
      ≤ Real.tan ((value x : ℝ) / 2 ^ 149) / 2 ^ 23 := by
  obtain ⟨hz | ⟨hs, hpos⟩, hmag, -⟩ := tan_domain h0 h1
  · rw [tan32_of_zero h0 h1 hz, value_of_zero hz]
    norm_num
  · obtain ⟨m, htan, hmax, -, hnear⟩ := tan32_of_positive h0 h1 hpos hmag
    have hU := unitR_pos
    rw [value_eq_fixVal, value_eq_fixVal, htan, fixVal_ofNat_tan hmax, fixVal_eq_fixMag hs, Int.cast_natCast,
      Int.cast_natCast]
    show |_ / unitR - Real.tan (_ / unitR)| ≤ Real.tan (_ / unitR) / _
    generalize Real.tan ((fixMag x : ℝ) / unitR) = t at *
    have hscale : (magVal m : ℝ) / unitR - t = ((magVal m : ℝ) - unitR * t) / unitR := by field_simp
    rw [hscale, abs_div, abs_of_pos hU, div_le_iff₀ hU]
    exact hnear.trans (le_of_eq (by ring))

/-- Settles O54. -/
theorem transcendentalUnitProperties : Obligations.TranscendentalUnitProperties := by
  refine ⟨fun nan x hnan => ⟨sin32_isNaN_iff hnan x, fun h => ?sineRange, sin32_near nan, ?sineZero⟩,
    fun nan x hnan => ⟨asin32_isNaN_iff hnan x, fun hlo hhi => ?arcsine, ?arcsineZero⟩, fun x h0 h1 => ?tangent, ?tangentZero⟩
  case sineRange =>
    obtain ⟨hlo, hhi⟩ := sin32_range nan h
    exact ⟨hlo, hhi, sin32_odd nan h⟩
  case sineZero => exact sin32_of_zero nan (by decide) (by decide)
  case arcsine =>
    obtain ⟨hn, hone, hmag⟩ := asin_domain hlo hhi
    obtain ⟨hrlo, hrhi⟩ := asin32_range nan hn hone
    exact ⟨hrlo, hrhi, asin32_odd nan hn hone, asin32_near nan hn hone hmag⟩
  case arcsineZero => exact asin32_of_zero nan (by decide) (by decide) (by decide)
  case tangent =>
    obtain ⟨hlo, hhi⟩ := tan32_range h0 h1
    exact ⟨isFinite_of_fle hlo hhi (by decide) (by decide), hlo, hhi, fun y => tan32_mono h0, tan32_near h0 h1⟩
  case tangentZero => exact tan32_of_zero (by decide) (by decide) (by decide)

end Sys2Proof
end

section
/-! PROOFS. The sample index, which no step of a sample writes, and what the frames of a RENDER write (R345). -/

namespace Sys2Proof

open Sys2Proof.Machine Sys2Proof.Claims

/-! The sample index (R30). -/

/-- The sample index stays. -/
def KeepsIndex (s t : State) : Prop := t.seq.n = s.seq.n

theorem KeepsIndex.refl (s : State) : KeepsIndex s s := rfl

theorem KeepsIndex.trans {s t u : State} (h : KeepsIndex s t) (k : KeepsIndex t u) : KeepsIndex s u := by
  unfold KeepsIndex at *
  rw [k, h]

theorem foldl_keepsIndex {α : Type} {f : State → α → State} (h : ∀ t a, KeepsIndex t (f t a)) (l : List α) (s : State) :
    KeepsIndex s (l.foldl f s) := foldl_keeps (KeepsIndex s) (fun t a ht => ht.trans (h t a)) l (KeepsIndex.refl s)

theorem lfoStep_keepsIndex (k : LfoIdx) (s : State) : KeepsIndex s (lfoStep k s) := by rw [KeepsIndex, lfoStep_eq]

theorem clearOff_keepsIndex (s : State) : KeepsIndex s (clearOff s) := rfl

theorem srcStep_keepsIndex (j : SlotIdx) (s : State) : KeepsIndex s (srcStep j s) := by
  unfold srcStep
  split <;> rfl

theorem accumulate_keepsIndex (site : DestSite) (d : Dest) (s : State) : KeepsIndex s (accumulate site d s) := rfl

theorem routeSlot_keepsIndex (j : SlotIdx) (s : State) : KeepsIndex s (routeSlot j s) := by
  unfold routeSlot
  simp only
  split
  · exact KeepsIndex.refl s
  · exact (srcStep_keepsIndex j s).trans (accumulate_keepsIndex _ _ _)

theorem routeDirect_keepsIndex (k : LfoIdx) (s : State) : KeepsIndex s (routeDirect k s) := by
  unfold routeDirect
  simp only
  split
  · exact KeepsIndex.refl s
  · exact accumulate_keepsIndex _ _ _

theorem routeStep_keepsIndex (s : State) : KeepsIndex s (routeStep s) := by
  rw [routeStep_eq]
  exact ((clearOff_keepsIndex s).trans (foldl_keepsIndex (fun t j => routeSlot_keepsIndex j t) _ _)).trans
    (foldl_keepsIndex (fun t k => routeDirect_keepsIndex k t) _ _)

theorem putEnv_keepsIndex (e : EnvIdx) (x : Envelope) (s : State) : KeepsIndex s (putEnv e x s) := rfl

theorem drew_keepsIndex (n : Nat) (s : State) : KeepsIndex s (drew n s) := rfl

theorem envStep_keepsIndex (e : EnvIdx) (s : State) : KeepsIndex s (envStep e s) := by
  unfold envStep
  split
  · exact putEnv_keepsIndex e _ s
  · exact (putEnv_keepsIndex e _ s).trans (drew_keepsIndex 1 _)
  · exact (putEnv_keepsIndex e _ s).trans (drew_keepsIndex 1 _)
  · exact putEnv_keepsIndex e _ s
  · exact (putEnv_keepsIndex e _ s).trans (drew_keepsIndex 1 _)

theorem voiceControl_keepsIndex (s : State) : KeepsIndex s (voiceControl s) := by
  rw [voiceControl]
  exact ((((lfoStep_keepsIndex 0 s).trans (lfoStep_keepsIndex 1 _)).trans (routeStep_keepsIndex _)).trans
    (envStep_keepsIndex 0 _)).trans (envStep_keepsIndex 1 _)

theorem pmTerm_keepsIndex (i j : OpIdx) (s : State) : KeepsIndex s (pmTerm i j s) := rfl

theorem pmStep_keepsIndex (i : OpIdx) (s : State) : KeepsIndex s (pmStep i s) := by
  rw [pmStep]
  exact (show KeepsIndex s (setSeq { s.seq with pm := fZero } s) from rfl).trans
    (foldl_keepsIndex (fun t j => pmTerm_keepsIndex i j t) _ _)

theorem latchOperands_n (q : Seq) (e g r c h : F32) : (latchOperands q e g r c h).n = q.n := rfl

theorem operatorOperands_keepsIndex (i : OpIdx) (s : State) : KeepsIndex s (operatorOperands i s) := by
  have hpm : KeepsIndex s (pmStep i (turnStart i s)) :=
    KeepsIndex.trans (t := turnStart i s) rfl (pmStep_keepsIndex i _)
  rw [KeepsIndex, operatorOperands_eq, ← hpm]
  exact latchOperands_n _ _ _ _ _ _

theorem processStep_keepsIndex (i : OpIdx) (s : State) : KeepsIndex s (processStep i s) := by
  rw [KeepsIndex, processStep_seq]

theorem operatorResult_keepsIndex (i : OpIdx) (s : State) : KeepsIndex s (operatorResult i s) := rfl

theorem voiceOperator_keepsIndex (i : OpIdx) (s : State) : KeepsIndex s (voiceOperator i s) := by
  rw [voiceOperator_eq]
  exact ((operatorOperands_keepsIndex i s).trans (processStep_keepsIndex i _)).trans (operatorResult_keepsIndex i _)

theorem headroomStep_keepsIndex (s : State) : KeepsIndex s (headroomStep s) := rfl

theorem clearPaths_keepsIndex (s : State) : KeepsIndex s (clearPaths s) := rfl

/-- A sample leaves the sample index. -/
theorem voiceSampleStep_keepsIndex (s : State) : KeepsIndex s (voiceSampleStep s) := by
  rw [voiceSampleStep]
  exact (((voiceControl_keepsIndex s).trans (clearPaths_keepsIndex _)).trans
    (foldl_keepsIndex (fun t i => voiceOperator_keepsIndex i t) allOps _)).trans (headroomStep_keepsIndex _)

/-- The frame's address, after the sample that is added to it (R87). -/
theorem frameAddr_voiceSampleStep (c : Nat) (s : State) : frameAddr c (voiceSampleStep s) = frameAddr c s := by
  have harg : (voiceSampleStep s).arg0 = s.arg0 := by rw [voiceSampleStep_voiceFrame]
  have hn : (voiceSampleStep s).seq.n = s.seq.n := voiceSampleStep_keepsIndex s
  unfold frameAddr startOperand
  rw [hn, harg]

theorem frameAddr_frameStart (c : Nat) {n : Nat} (hn : n < 2 ^ 13) (s : State) :
    frameAddr c (frameStart n s) = 0x1000 + 0x1000 * c + (s.arg0.toNat + n) := by
  show 0x1000 + 0x1000 * c + (s.arg0.toNat + (BitVec.ofNat 13 n).toNat) = _
  rw [BitVec.toNat_ofNat, Nat.mod_eq_of_lt hn]

/-! One frame. -/

theorem outAddStep_epoch (s : State) : (outAddStep s).epoch = s.epoch := by rw [outAddStep_frame]

theorem renderWrites_operands {s t : State} (h : renderWrites s t) : t.arg0 = s.arg0 ∧ t.act = s.act ∧ t.epoch = s.epoch := by
  rw [h]
  exact ⟨rfl, rfl, rfl⟩

theorem renderFrame_operands (n : Nat) (s : State) : (renderFrame n s).arg0 = s.arg0 ∧
    (renderFrame n s).act = s.act ∧ (renderFrame n s).epoch = s.epoch :=
  renderWrites_operands (renderFrame_renderWrites n s)

/-- A frame stores to the frame's word of both channels and to no other OUTBUF word. -/
theorem renderFrame_outbuf {n : Nat} (hn : n < 2 ^ 13) {s : State} {x : Nat}
    (hx : ∀ c : Fin 2, x ≠ 0x1000 + 0x1000 * c.val + (s.arg0.toNat + n)) :
    outbufRead x (renderFrame n s) = outbufRead x s := by
  obtain ⟨-, -, -, -, hout⟩ := renderFrame_registers n s
  obtain ⟨-, -, hepoch⟩ := renderFrame_operands n s
  obtain ⟨hvoice, hvepoch⟩ := voiceSampleStep_memory (frameStart n s)
  have hadd : (outAddStep (voiceSampleStep (frameStart n s))).epoch = s.epoch := (outAddStep_epoch _).trans hvepoch
  have haddr (c : Fin 2) : x ≠ frameAddr c.val (voiceSampleStep (frameStart n s)) := by
    rw [frameAddr_voiceSampleStep, frameAddr_frameStart _ hn]
    exact hx c
  rw [outbufRead_congr hout (hepoch.trans hadd.symm), outAddStep_read, if_neg (fun h => haddr 1 h.1),
    if_neg (fun h => haddr 0 h.1)]
  exact outbufRead_congr hvoice hvepoch x

/-- A frame advances the write index of an operator in comb mode, and writes only the delay word there. -/
theorem renderFrame_delay (n : Nat) (i : OpIdx) (s : State) :
    (renderFrame n s).op[i].w = (if s.act.op[i].mode = 2 then s.op[i].w + 1 else s.op[i].w) ∧
    ∀ k, ¬(s.act.op[i].mode = 2 ∧ k = s.op[i].w) → delayRead i k (renderFrame n s) = delayRead i k s := by
  obtain ⟨hop, -⟩ := renderFrame_registers n s
  obtain ⟨hw, hread⟩ := voiceSampleStep_delay i (frameStart n s)
  exact ⟨by rw [hop]; exact hw, fun k hk => (delayRead_congr hop i k).trans (hread k hk)⟩

/-! The frames of a RENDER. -/

/-- The frames store to their own words of both channels and to no other OUTBUF word. -/
theorem renderFrames_outbuf (count n : Nat) (hn : n + count ≤ 2 ^ 13) {s : State} {x : Nat}
    (hx : ∀ (c : Fin 2) (k : Nat), k < count → x ≠ 0x1000 + 0x1000 * c.val + (s.arg0.toNat + (n + k))) :
    outbufRead x (renderFrames count n s) = outbufRead x s := by
  induction count generalizing n s with
  | zero => rfl
  | succ count ih =>
    by_cases hidle : s.vstate = .idle
    · rw [renderFrames_of_idle _ _ hidle]
    · obtain ⟨harg, -⟩ := renderFrame_operands n s
      rw [renderFrames_of_sounding _ _ hidle, ih (n + 1) (by omega)]
      · exact renderFrame_outbuf (by omega) (fun c => hx c 0 (by omega))
      · intro c k hk
        rw [harg, Nat.add_assoc n, Nat.add_comm 1]
        exact hx c (k + 1) (by omega)

/-- The frames write only the delay words that as many steps of the write index reach. -/
theorem renderFrames_delay (i : OpIdx) (k : DelayIdx) (count n : Nat) {s : State}
    (h : s.act.op[i].mode ≠ 2 ∨ count ≤ (k - s.op[i].w).toNat) :
    delayRead i k (renderFrames count n s) = delayRead i k s := by
  induction count generalizing n s with
  | zero => rfl
  | succ count ih =>
    by_cases hidle : s.vstate = .idle
    · rw [renderFrames_of_idle _ _ hidle]
    · obtain ⟨-, hact, -⟩ := renderFrame_operands n s
      obtain ⟨hw, hread⟩ := renderFrame_delay n i s
      rw [renderFrames_of_sounding _ _ hidle, ih]
      · refine hread k ?_
        rintro ⟨hmode, rfl⟩
        rcases h with h | h
        · exact h hmode
        · rw [BitVec.sub_self] at h
          exact absurd h (by simp)
      · rw [hact, hw]
        by_cases hmode : s.act.op[i].mode = 2
        · rw [if_pos hmode]
          have hfar := h.resolve_left (not_not.mpr hmode)
          generalize s.op[i].w = w at hfar
          have hsub : k - (w + 1) = (k - w) - 1 := (BitVec.sub_sub k w 1).symm
          right
          rw [hsub]
          generalize k - w = d at hfar
          change BitVec 17 at d
          bv_omega
        · exact .inl hmode

theorem blockSize_lt (s : State) : s.blockSize.toNat < 2 ^ 13 := s.blockSize.isLt

theorem setSeq_outbufRead (q : Seq) (x : Nat) (s : State) : outbufRead x (setSeq q s) = outbufRead x s := rfl

theorem setSeq_delayRead (q : Seq) (i : OpIdx) (k : DelayIdx) (s : State) : delayRead i k (setSeq q s) = delayRead i k s := rfl

/-- Settles O44. -/
theorem renderCompletesWithinItsFrame : Obligations.RenderCompletesWithinItsFrame := by
  intro s hprep hrange
  have hblock := blockSize_lt s
  refine ⟨_, exec_render_of_legal hprep hrange, render_renderWrites _ s, rfl, fun x hx => ?outbuf, fun i k hk => ?delay,
    ?voice, fun h => ?still⟩
  case outbuf =>
    rw [setSeq_outbufRead]
    refine renderFrames_outbuf _ 0 (by omega) fun c k hk => ?_
    rw [Nat.zero_add]
    exact hx c k hk
  case delay => rw [setSeq_delayRead, renderFrames_delay i k _ 0 hk]
  case voice =>
    rw [setSeq_vstate, setSeq_done]
    exact (renderFrames_voice s.arg1.toNat 0 s).imp id fun ⟨hidle, hdone, _⟩ => ⟨hidle, hdone⟩
  case still =>
    rcases h with hidle | hzero
    · rw [renderFrames_of_idle _ _ hidle]; rfl
    · rw [show s.arg1.toNat = 0 by rw [hzero]; rfl, renderFrames_zero]; rfl

end Sys2Proof
end

section
/-! PROOFS. Two runs of the same samples: a frame does the same on two states that differ only in the operands, in STAGE,
in the inert fields of ACT's slots and LFO parameters (R233), and in what the transient values hold between frames. -/

namespace Sys2Proof

open Sys2Proof.Machine Sys2Proof.Claims

/-! The other run. -/

/-- What the other run has its own of. -/
structure Variant where
  arg0 : Word
  arg1 : Word
  stage : Vector Word 164
  slot : Vector SlotParams 8
  lfo : Vector LfoParams 2

/-- The other run's state, with its transient values. -/
def Variant.on (v : Variant) (s : State) (q : Seq) : State :=
  { s with arg0 := v.arg0, arg1 := v.arg1, stage := v.stage, act := { s.act with slot := v.slot, lfo := v.lfo }, seq := q }

/-- The other run's slots and LFO parameters agree with ACT but for the inert fields (R233). -/
structure Variant.Agrees (v : Variant) (a : Snapshot) : Prop where
  wave : ∀ k : LfoIdx, v.lfo[k].wave = a.lfo[k].wave
  freq : ∀ k : LfoIdx, v.lfo[k].freq = a.lfo[k].freq
  amount : ∀ k : LfoIdx, v.lfo[k].amount = a.lfo[k].amount
  ddest : ∀ k : LfoIdx, v.lfo[k].ddest = a.lfo[k].ddest
  ddepth : ∀ k : LfoIdx, a.lfo[k].ddest ≠ 0 → v.lfo[k].ddepth = a.lfo[k].ddepth
  dest : ∀ j : SlotIdx, v.slot[j].dest = a.slot[j].dest
  slot : ∀ j : SlotIdx, a.slot[j].dest ≠ 0 → v.slot[j] = a.slot[j]

theorem Variant.Agrees.congr {v : Variant} {a b : Snapshot} (h : v.Agrees a) (hab : b = a) : v.Agrees b := by rwa [hab]

/-- The other run is at the same point, and its transient values hold the first run's where they are live. -/
def Twin (v : Variant) (live : Seq → Seq → Seq) (s t : State) : Prop := ∃ q, t = v.on s (live s.seq q)

theorem Twin.of_seq {v : Variant} {live : Seq → Seq → Seq} {s t : State} (h : t = v.on s (live s.seq t.seq)) :
    Twin v live s t := ⟨t.seq, h⟩

theorem Twin.of_on {v : Variant} {live : Seq → Seq → Seq} {s : State} {q : Seq} (h : q = live s.seq q) :
    Twin v live s (v.on s q) := ⟨q, congrArg (v.on s) h⟩

/-! The transient values that are live at each point of a sample: the first run's, in the other run's. -/

def noneLive (_ q : Seq) : Seq := q

def lvLive (p q : Seq) : Seq := { q with lv := p.lv }

theorem eq_lvLive {p q : Seq} (h : q.lv = p.lv) : q = lvLive p q := by rw [lvLive, ← h]

def routeLive (p q : Seq) : Seq := { q with lv := p.lv, off := p.off }

def controlLive (p q : Seq) : Seq := { q with off := p.off, ev := p.ev }

theorem eq_controlLive {p q : Seq} (hoff : q.off = p.off) (hev : q.ev = p.ev) : q = controlLive p q := by
  rw [controlLive, ← hoff, ← hev]

def pathsLive (p q : Seq) : Seq := { q with off := p.off, ev := p.ev, chain := p.chain, par := p.par }

def pmLive (p q : Seq) : Seq := { pathsLive p q with pm := p.pm }

def operandsLive (p q : Seq) : Seq :=
  { pmLive p q with env := p.env, gain := p.gain, ratio := p.ratio, c1 := p.c1, thz := p.thz }

def resultLive (p q : Seq) : Seq := { operandsLive p q with out := p.out }

def sampleLive (p q : Seq) : Seq := { q with y := p.y }

/-! LFOs (R283). -/

/-- The value LFO k hands on (R283). -/
def lfoValue (k : LfoIdx) (s : State) : F32 :=
  fmul (s.nan (waveDraws s.act.lfo[k].wave)) (waveform s.nan s.act.lfo[k].wave s.lph[k]) s.act.lfo[k].amount

theorem lfoStep_lv (k : LfoIdx) (s : State) : (lfoStep k s).seq.lv = s.seq.lv.set k.val (lfoValue k s) k.isLt := by
  rw [lfoStep_eq]; rfl

theorem lfoStep_act (k : LfoIdx) (s : State) : (lfoStep k s).act = s.act := by rw [lfoStep_eq]

/-- The transient values after an LFO's step. -/
def withLfo (k : LfoIdx) (wave value : F32) (q : Seq) : Seq := { q with wave := wave, lv := q.lv.set k.val value k.isLt }

theorem withLfo_lv (k : LfoIdx) (w x : F32) (q : Seq) : (withLfo k w x q).lv = q.lv.set k.val x k.isLt := rfl

theorem lfoStep_on {v : Variant} {s : State} (h : v.Agrees s.act) (k : LfoIdx) (q : Seq) : lfoStep k (v.on s q) =
    v.on (lfoStep k s) (withLfo k (waveform s.nan s.act.lfo[k].wave s.lph[k]) (lfoValue k s) q) := by
  have hw : (v.on s q).act.lfo[k].wave = s.act.lfo[k].wave := h.wave k
  have hf : (v.on s q).act.lfo[k].freq = s.act.lfo[k].freq := h.freq k
  have ha : (v.on s q).act.lfo[k].amount = s.act.lfo[k].amount := h.amount k
  rw [lfoStep_eq, lfoStep_eq, hw, hf, ha]
  rfl

/-- Both LFOs leave the other run the first run's values, whatever it held. -/
theorem lfoSteps_twin {v : Variant} {s t : State} (h : v.Agrees s.act) (ht : Twin v noneLive s t) :
    Twin v lvLive (lfoStep 1 (lfoStep 0 s)) (lfoStep 1 (lfoStep 0 t)) := by
  obtain ⟨q, rfl⟩ := ht
  have h1 : v.Agrees (lfoStep 0 s).act := h.congr (lfoStep_act 0 s)
  rw [lfoStep_on h, lfoStep_on h1]
  refine Twin.of_on (eq_lvLive ?_)
  rw [withLfo_lv, withLfo_lv, lfoStep_lv, lfoStep_lv]
  exact (set_both ![lfoValue 0 s, lfoValue 1 (lfoStep 0 s)] q.lv).trans
    (set_both ![lfoValue 0 s, lfoValue 1 (lfoStep 0 s)] s.seq.lv).symm

/-! The router (R231, R233). -/

theorem clearOff_twin {v : Variant} {s t : State} (ht : Twin v lvLive s t) : Twin v routeLive (clearOff s) (clearOff t) := by
  obtain ⟨q, rfl⟩ := ht
  exact Twin.of_seq rfl

theorem accumulate_slot_eq (j : SlotIdx) (d : Dest) (x : F32) (s : State) : accumulate (.slot j) d (setSrc x s) =
    drew 2 (setSeq { s.seq with
      src := x
      off := s.seq.off.set d.val (fadd (s.nan 1) (offAt d s) (fmul (s.nan 0) x s.act.slot[j].amount)) d.isLt } s) := rfl

theorem accumulate_direct_eq (k : LfoIdx) (d : Dest) (s : State) : accumulate (.direct k) d s =
    drew 2 (setSeq { s.seq with
      off := s.seq.off.set d.val (fadd (s.nan 1) (offAt d s) (fmul (s.nan 0) s.seq.lv[k] s.act.lfo[k].ddepth)) d.isLt } s) :=
  rfl

theorem routeSlot_of_inert {j : SlotIdx} {s : State} (h : s.act.slot[j].dest = 0) : routeSlot j s = s := if_pos h

theorem routeSlot_of_live {j : SlotIdx} {s : State} (h : s.act.slot[j].dest ≠ 0) :
    routeSlot j s = accumulate (.slot j) s.act.slot[j].dest (setSrc (sourceValue s s.act.slot[j].src) s) := by
  rw [← srcStep_eq]
  exact if_neg h

theorem routeDirect_of_inert {k : LfoIdx} {s : State} (h : s.act.lfo[k].ddest = 0) : routeDirect k s = s := if_pos h

theorem routeDirect_of_live {k : LfoIdx} {s : State} (h : s.act.lfo[k].ddest ≠ 0) :
    routeDirect k s = accumulate (.direct k) s.act.lfo[k].ddest s := if_neg h

theorem routeSlot_twin {v : Variant} {s t : State} (h : v.Agrees s.act) (j : SlotIdx) (ht : Twin v routeLive s t) :
    Twin v routeLive (routeSlot j s) (routeSlot j t) := by
  obtain ⟨q, rfl⟩ := ht
  have hdest : (v.on s (routeLive s.seq q)).act.slot[j].dest = s.act.slot[j].dest := h.dest j
  by_cases hd : s.act.slot[j].dest = 0
  · rw [routeSlot_of_inert hd, routeSlot_of_inert (hdest.trans hd)]
    exact ⟨q, rfl⟩
  · have hslot : (v.on s (routeLive s.seq q)).act.slot[j] = s.act.slot[j] := h.slot j hd
    rw [routeSlot_of_live hd, routeSlot_of_live (by rwa [hdest]), accumulate_slot_eq, accumulate_slot_eq, hslot]
    generalize s.act.slot[j] = slot
    exact Twin.of_seq rfl

theorem routeDirect_twin {v : Variant} {s t : State} (h : v.Agrees s.act) (k : LfoIdx) (ht : Twin v routeLive s t) :
    Twin v routeLive (routeDirect k s) (routeDirect k t) := by
  obtain ⟨q, rfl⟩ := ht
  have hdest : (v.on s (routeLive s.seq q)).act.lfo[k].ddest = s.act.lfo[k].ddest := h.ddest k
  by_cases hd : s.act.lfo[k].ddest = 0
  · rw [routeDirect_of_inert hd, routeDirect_of_inert (hdest.trans hd)]
    exact ⟨q, rfl⟩
  · have hdepth : (v.on s (routeLive s.seq q)).act.lfo[k].ddepth = s.act.lfo[k].ddepth := h.ddepth k hd
    rw [routeDirect_of_live hd, routeDirect_of_live (by rwa [hdest]), hdest, accumulate_direct_eq, accumulate_direct_eq,
      hdepth]
    exact Twin.of_seq rfl

/-- A loop whose turns keep ACT and the other run at the same point. -/
theorem foldl_twin {α : Type} {v : Variant} {live : Seq → Seq → Seq} {f : State → α → State} {act : Snapshot}
    (hact : ∀ s a, (f s a).act = s.act)
    (hf : ∀ s t a, s.act = act → Twin v live s t → Twin v live (f s a) (f t a)) (l : List α) {s t : State}
    (hs : s.act = act) (ht : Twin v live s t) : Twin v live (l.foldl f s) (l.foldl f t) := by
  induction l generalizing s t with
  | nil => exact ht
  | cons a l ih => exact ih ((hact s a).trans hs) (hf s t a hs ht)

theorem seqFrame_act {s t : State} (h : seqFrame s t) : t.act = s.act := by rw [h]

/-- ROUTE leaves the other run the first run's offsets. -/
theorem routeStep_twin {v : Variant} {s t : State} (h : v.Agrees s.act) (ht : Twin v lvLive s t) :
    Twin v routeLive (routeStep s) (routeStep t) := by
  rw [routeStep_eq, routeStep_eq]
  refine foldl_twin (act := s.act) (fun s k => seqFrame_act (routeDirect_seqFrame k s))
    (fun s t k hs => routeDirect_twin (h.congr hs) k) _ ?act (foldl_twin (act := s.act)
      (fun s j => seqFrame_act (routeSlot_seqFrame j s)) (fun s t j hs => routeSlot_twin (h.congr hs) j) _ rfl
      (clearOff_twin ht))
  case act =>
    exact foldl_keeps (fun t => t.act = s.act) (fun t j ht => (seqFrame_act (routeSlot_seqFrame j t)).trans ht) _ rfl

/-! Envelopes (R254 to R258). -/

/-- How many NaNs a step of an envelope in a stage draws. -/
def envDraws : EStage → Nat
  | .idle | .sustain => 0
  | .attack | .decay | .release => 1

theorem envStep_eq (e : EnvIdx) (s : State) :
    envStep e s = drew (envDraws s.env[e].stage) (putEnv e (nextEnvelope (s.nan 0) s.env[e]) s) := by
  unfold envStep nextEnvelope
  cases s.env[e].stage <;> rfl

/-- The transient values after an envelope's step. -/
def withLevel (e : EnvIdx) (level : F32) (q : Seq) : Seq := { q with ev := q.ev.set e.val level e.isLt }

theorem withLevel_ev (e : EnvIdx) (x : F32) (q : Seq) : (withLevel e x q).ev = q.ev.set e.val x e.isLt := rfl

theorem withLevel_off (e : EnvIdx) (x : F32) (q : Seq) : (withLevel e x q).off = q.off := rfl

/-- The level envelope e hands on (R310). -/
def levelValue (e : EnvIdx) (s : State) : F32 := (nextEnvelope (s.nan 0) s.env[e]).level

theorem envStep_seq (e : EnvIdx) (s : State) : (envStep e s).seq = withLevel e (levelValue e s) s.seq := by
  rw [envStep_eq]; rfl

theorem envStep_on (v : Variant) (e : EnvIdx) (s : State) (q : Seq) :
    envStep e (v.on s q) = v.on (envStep e s) (withLevel e (levelValue e s) q) := by
  rw [envStep_eq, envStep_eq]; rfl

/-- Both envelopes leave the other run the first run's levels, whatever it held. -/
theorem envSteps_twin {v : Variant} {s t : State} (ht : Twin v routeLive s t) :
    Twin v controlLive (envStep 1 (envStep 0 s)) (envStep 1 (envStep 0 t)) := by
  obtain ⟨q, rfl⟩ := ht
  rw [envStep_on, envStep_on]
  refine Twin.of_on (eq_controlLive ?off ?ev)
  case off => rw [withLevel_off, withLevel_off, envStep_seq, envStep_seq, withLevel_off, withLevel_off]; rfl
  case ev =>
    rw [withLevel_ev, withLevel_ev, envStep_seq, envStep_seq, withLevel_ev, withLevel_ev]
    exact (set_both ![levelValue 0 s, levelValue 1 (envStep 0 s)] _).trans
      (set_both ![levelValue 0 s, levelValue 1 (envStep 0 s)] s.seq.ev).symm

/-! The operators (R310 to R316). -/

theorem clearPaths_twin {v : Variant} {s t : State} (ht : Twin v controlLive s t) :
    Twin v pathsLive (clearPaths s) (clearPaths t) := by
  obtain ⟨q, rfl⟩ := ht
  exact Twin.of_seq rfl

theorem pmTerm_twin {v : Variant} {s t : State} (i j : OpIdx) (ht : Twin v pmLive s t) :
    Twin v pmLive (pmTerm i j s) (pmTerm i j t) := by
  obtain ⟨q, rfl⟩ := ht
  exact Twin.of_seq rfl

theorem turnStart_twin {v : Variant} {s t : State} (i : OpIdx) (ht : Twin v pathsLive s t) :
    Twin v pathsLive (turnStart i s) (turnStart i t) := by
  obtain ⟨q, rfl⟩ := ht
  exact Twin.of_seq rfl

end Sys2Proof
end

section
/-! PROOFS. Two runs of the same samples, from the operators to the frames of a RENDER. -/

namespace Sys2Proof

open Sys2Proof.Machine Sys2Proof.Claims

/-! An operator's turn (R310 to R316). -/

theorem pmClear_twin {v : Variant} {s t : State} (ht : Twin v pathsLive s t) :
    Twin v pmLive (setSeq { s.seq with pm := fZero } s) (setSeq { t.seq with pm := fZero } t) := by
  obtain ⟨q, rfl⟩ := ht
  exact Twin.of_seq rfl

theorem pmStep_twin {v : Variant} {s t : State} (i : OpIdx) (ht : Twin v pathsLive s t) :
    Twin v pmLive (pmStep i s) (pmStep i t) := by
  rw [pmStep, pmStep]
  exact foldl_twin (act := s.act) (fun s j => seqFrame_act (pmTerm_seqFrame i j s)) (fun s t j _ => pmTerm_twin i j) _ rfl
    (pmClear_twin ht)

theorem latched_twin {v : Variant} {s t : State} (i : OpIdx) (ht : Twin v pmLive s t) :
    Twin v operandsLive (modulateStep i (envsrcStep i s)) (modulateStep i (envsrcStep i t)) := by
  obtain ⟨q, rfl⟩ := ht
  rw [modulateStep_eq, modulateStep_eq]
  exact Twin.of_seq rfl

theorem operatorOperands_twin {v : Variant} {s t : State} (i : OpIdx) (ht : Twin v pathsLive s t) :
    Twin v operandsLive (operatorOperands i s) (operatorOperands i t) :=
  latched_twin i (pmStep_twin i (turnStart_twin i ht))

theorem oscStep_twin {v : Variant} {s t : State} (i : OpIdx) (ht : Twin v operandsLive s t) :
    Twin v resultLive (oscStep i s) (oscStep i t) := by
  obtain ⟨q, rfl⟩ := ht
  exact Twin.of_seq rfl

theorem lpfStep_twin {v : Variant} {s t : State} (i : OpIdx) (ht : Twin v operandsLive s t) :
    Twin v resultLive (lpfStep i s) (lpfStep i t) := by
  obtain ⟨q, rfl⟩ := ht
  exact Twin.of_seq rfl

theorem combStep_twin {v : Variant} {s t : State} (i : OpIdx) (ht : Twin v operandsLive s t) :
    Twin v resultLive (combStep i s) (combStep i t) := by
  obtain ⟨q, rfl⟩ := ht
  exact Twin.of_seq rfl

theorem passStep_twin {v : Variant} {s t : State} (ht : Twin v operandsLive s t) :
    Twin v resultLive (passStep s) (passStep t) := by
  obtain ⟨q, rfl⟩ := ht
  exact Twin.of_seq rfl

theorem Twin.op {v : Variant} {live : Seq → Seq → Seq} {s t : State} (ht : Twin v live s t) :
    t.act.op = s.act.op ∧ t.env = s.env ∧ t.vstate = s.vstate := by
  obtain ⟨q, rfl⟩ := ht
  exact ⟨rfl, rfl, rfl⟩

theorem processStep_twin {v : Variant} {s t : State} (i : OpIdx) (ht : Twin v operandsLive s t) :
    Twin v resultLive (processStep i s) (processStep i t) := by
  obtain ⟨hop, -⟩ := ht.op
  unfold processStep
  rw [hop]
  split
  · exact oscStep_twin i ht
  · exact lpfStep_twin i ht
  · exact combStep_twin i ht
  · exact passStep_twin ht

theorem operatorResult_twin {v : Variant} {s t : State} (i : OpIdx) (ht : Twin v resultLive s t) :
    Twin v pathsLive (operatorResult i s) (operatorResult i t) := by
  obtain ⟨q, rfl⟩ := ht
  exact Twin.of_seq rfl

theorem voiceOperator_twin {v : Variant} {s t : State} (i : OpIdx) (ht : Twin v pathsLive s t) :
    Twin v pathsLive (voiceOperator i s) (voiceOperator i t) := by
  rw [voiceOperator_eq, voiceOperator_eq]
  exact operatorResult_twin i (processStep_twin i (operatorOperands_twin i ht))

/-! A sample (R310). -/

theorem headroomStep_twin {v : Variant} {s t : State} (ht : Twin v pathsLive s t) :
    Twin v sampleLive (headroomStep s) (headroomStep t) := by
  obtain ⟨q, rfl⟩ := ht
  exact Twin.of_seq rfl

theorem Twin.forget {v : Variant} {live : Seq → Seq → Seq} {s t : State} (ht : Twin v live s t) : Twin v noneLive s t := by
  obtain ⟨q, rfl⟩ := ht
  exact ⟨live s.seq q, rfl⟩

/-- A sample leaves the other run the first run's output sample, whatever its transient values held. -/
theorem voiceSampleStep_twin {v : Variant} {s t : State} (h : v.Agrees s.act) (ht : Twin v noneLive s t) :
    Twin v sampleLive (voiceSampleStep s) (voiceSampleStep t) := by
  have hlfo : (lfoStep 1 (lfoStep 0 s)).act = s.act := (lfoStep_act 1 _).trans (lfoStep_act 0 s)
  have hcontrol := envSteps_twin (routeStep_twin (h.congr hlfo) (lfoSteps_twin h ht))
  rw [voiceSampleStep, voiceSampleStep]
  exact headroomStep_twin (foldl_twin (act := (clearPaths (voiceControl s)).act) (fun s i => voiceOperator_act i s)
    (fun s t i _ => voiceOperator_twin i) _ rfl (clearPaths_twin hcontrol))

/-! A frame (R318, R320, R345). -/

theorem outAddChannel_twin {v : Variant} {s t : State} (c : Nat) (haddr : frameAddr c t = frameAddr c s)
    (ht : Twin v sampleLive s t) : Twin v sampleLive (outAddChannel c s) (outAddChannel c t) := by
  have heq (x : State) : outAddChannel c x =
      drew 1 (outbufWrite (frameAddr c x) (fadd (x.nan 0) (outbufRead (frameAddr c x) x) x.seq.y) x) := rfl
  rw [heq, heq, haddr]
  generalize frameAddr c s = a
  obtain ⟨q, rfl⟩ := ht
  unfold outbufWrite
  split
  · exact Twin.of_seq rfl
  · exact Twin.of_seq rfl

theorem frameAddr_outAddChannel (c d : Nat) (s : State) : frameAddr c (outAddChannel d s) = frameAddr c s := by
  rw [outAddChannel_frame]
  rfl

theorem outAddStep_twin {v : Variant} {s t : State} (haddr : ∀ c, frameAddr c t = frameAddr c s)
    (ht : Twin v sampleLive s t) : Twin v sampleLive (outAddStep s) (outAddStep t) := by
  rw [outAddStep_channels, outAddStep_channels]
  exact outAddChannel_twin 1 (by rw [frameAddr_outAddChannel, frameAddr_outAddChannel, haddr])
    (outAddChannel_twin 0 (haddr 0) ht)

theorem completeStep_twin {v : Variant} {s t : State} (ht : Twin v sampleLive s t) :
    Twin v sampleLive (completeStep s) (completeStep t) := by
  obtain ⟨q, rfl⟩ := ht
  have hidle : bothEnvIdle (v.on s (sampleLive s.seq q)) = bothEnvIdle s := rfl
  unfold completeStep
  rw [hidle]
  split
  · exact Twin.of_seq rfl
  · exact Twin.of_seq rfl

theorem frameStart_twin {v : Variant} {s t : State} (m n : Nat) (ht : Twin v noneLive s t) :
    Twin v noneLive (frameStart m s) (frameStart n t) := by
  obtain ⟨q, rfl⟩ := ht
  exact Twin.of_seq rfl

/-- Frame n of the one run and frame m of the other do the same where both start at the same OUTBUF frame. -/
theorem renderFrame_twin {v : Variant} {s t : State} (h : v.Agrees s.act) {m n : Nat} (hm : m < 2 ^ 13) (hn : n < 2 ^ 13)
    (hstart : t.arg0.toNat + m = s.arg0.toNat + n) (ht : Twin v noneLive s t) :
    Twin v noneLive (renderFrame n s) (renderFrame m t) := by
  have hsample : Twin v sampleLive (voiceSampleStep (frameStart n s)) (voiceSampleStep (frameStart m t)) :=
    voiceSampleStep_twin h (frameStart_twin n m ht)
  have haddr (c : Nat) : frameAddr c (voiceSampleStep (frameStart m t)) = frameAddr c (voiceSampleStep (frameStart n s)) := by
    rw [frameAddr_voiceSampleStep, frameAddr_voiceSampleStep, frameAddr_frameStart c hm, frameAddr_frameStart c hn, hstart]
  rw [renderFrame_eq, renderFrame_eq]
  exact (completeStep_twin (outAddStep_twin haddr hsample)).forget

/-- As many frames of both runs do the same. -/
theorem renderFrames_twin {v : Variant} {s t : State} (h : v.Agrees s.act) (count : Nat) {m n : Nat}
    (hm : m + count ≤ 2 ^ 13) (hn : n + count ≤ 2 ^ 13) (hstart : t.arg0.toNat + m = s.arg0.toNat + n)
    (ht : Twin v noneLive s t) : Twin v noneLive (renderFrames count n s) (renderFrames count m t) := by
  induction count generalizing m n s t with
  | zero => exact ht
  | succ count ih =>
    obtain ⟨-, -, hv⟩ := ht.op
    by_cases hidle : s.vstate = .idle
    · rw [renderFrames_of_idle _ _ hidle, renderFrames_of_idle _ _ (hv.trans hidle)]
      exact ht
    · obtain ⟨hs, hact, -⟩ := renderFrame_operands n s
      obtain ⟨ht0, -, -⟩ := renderFrame_operands m t
      rw [renderFrames_of_sounding _ _ hidle, renderFrames_of_sounding _ _ (by rwa [hv])]
      exact ih (h.congr hact) (by omega) (by omega) (by rw [hs, ht0]; omega)
        (renderFrame_twin h (by omega) (by omega) hstart ht)

end Sys2Proof
end

section
/-! PROOFS. What the two runs show of RENDER: STAGE and inert fields are invisible to it (R39, R95, R233), and a block may
be cut in two (R345). -/

namespace Sys2Proof

open Sys2Proof.Machine Sys2Proof.Claims

/-! RENDER on the other run's state. -/

theorem takeRefusal_on (v : Variant) (flag : ErrFlag) (cause : BitVec 8) (info : BitVec 24) (s : State) :
    takeRefusal flag cause info (v.on s s.seq) =
      v.on (takeRefusal flag cause info s) (takeRefusal flag cause info s).seq := by
  cases flag <;> rfl

/-- What RENDER reads of the operand registers and STAGE, and ACT, are not its to write. -/
def OperandsKept (s t : State) : Prop :=
  t.arg0 = s.arg0 ∧ t.arg1 = s.arg1 ∧ t.stage = s.stage ∧ t.act = s.act ∧ t.prepared = s.prepared ∧
    t.blockSize = s.blockSize

theorem OperandsKept.act {s t : State} (h : OperandsKept s t) : t.act = s.act := by
  obtain ⟨-, -, -, hact, -⟩ := h
  exact hact

theorem takeRefusal_operandsKept (flag : ErrFlag) (cause : BitVec 8) (info : BitVec 24) (s : State) :
    OperandsKept s (takeRefusal flag cause info s) := by
  rw [takeRefusal_refusalFrame]
  exact ⟨rfl, rfl, rfl, rfl, rfl, rfl⟩

theorem operandsKept_of_renderWrites {s t : State} (h : renderWrites s t) : OperandsKept s t := by
  rw [h]
  exact ⟨rfl, rfl, rfl, rfl, rfl, rfl⟩

/-- RENDER does the same on a state with its own STAGE and its own inert fields. -/
theorem exec_render_on {v : Variant} {s : State} (h : v.Agrees s.act) (h0 : v.arg0 = s.arg0) (h1 : v.arg1 = s.arg1) :
    ∃ t, exec .render s = .next t ∧ exec .render (v.on s s.seq) = .next (v.on t t.seq) ∧ OperandsKept s t := by
  cases hprep : s.prepared with
  | false =>
    exact ⟨_, exec_render_of_unprepared hprep,
      (exec_render_of_unprepared (s := v.on s s.seq) hprep).trans (congrArg _ (takeRefusal_on v _ _ _ s)),
      takeRefusal_operandsKept _ _ _ s⟩
  | true =>
    have ha0 : (v.on s s.seq).arg0 = s.arg0 := h0
    have ha1 : (v.on s s.seq).arg1 = s.arg1 := h1
    have hblock : (v.on s s.seq).blockSize = s.blockSize := rfl
    by_cases hrange : s.arg0.toNat + s.arg1.toNat ≤ s.blockSize.toNat
    · have hsize := blockSize_lt s
      obtain ⟨q, hq⟩ := renderFrames_twin (s := s) (t := v.on s s.seq) h s.arg1.toNat (m := 0) (n := 0) (by omega) (by omega)
        (by rw [ha0]) ⟨s.seq, rfl⟩
      refine ⟨_, exec_render_of_legal hprep hrange, ?_, operandsKept_of_renderWrites (render_renderWrites _ s)⟩
      rw [exec_render_of_legal (s := v.on s s.seq) hprep (by rw [ha0, ha1, hblock]; exact hrange), ha1, hq]
      rfl
    · have hover := not_le.mp hrange
      refine ⟨_, exec_render_of_range hprep hover, ?_, takeRefusal_operandsKept _ _ _ s⟩
      rw [exec_render_of_range (s := v.on s s.seq) hprep (by rw [ha0, ha1, hblock]; exact hover), ha0, takeRefusal_on]

/-- RENDER commutes with a function that gives its states what the other run has its own of. -/
theorem exec_render_commutes {v : Variant} {s : State} {f : State → State} (h : v.Agrees s.act) (h0 : v.arg0 = s.arg0)
    (h1 : v.arg1 = s.arg1) (hf : ∀ t, OperandsKept s t → f t = v.on t t.seq) :
    exec .render (f s) = mapNext f (exec .render s) := by
  obtain ⟨t, hexec, hother, hkept⟩ := exec_render_on h h0 h1
  rw [hf s ⟨rfl, rfl, rfl, rfl, rfl, rfl⟩, hother, hexec, ← hf t hkept]
  rfl

/-- The same registers and ACT, for the other run to replace. -/
def Variant.same (s : State) : Variant := ⟨s.arg0, s.arg1, s.stage, s.act.slot, s.act.lfo⟩

theorem Variant.same_congr {s t : State} (h : OperandsKept s t) : Variant.same t = Variant.same s := by
  obtain ⟨h0, h1, hstage, hact, -⟩ := h
  rw [Variant.same, Variant.same, h0, h1, hstage, hact]

theorem Variant.agrees_of_eq {v : Variant} {a : Snapshot} (hslot : v.slot = a.slot) (hlfo : v.lfo = a.lfo) : v.Agrees a :=
  ⟨by rw [hlfo]; exact fun _ => rfl, by rw [hlfo]; exact fun _ => rfl, by rw [hlfo]; exact fun _ => rfl,
    by rw [hlfo]; exact fun _ => rfl, by rw [hlfo]; exact fun _ _ => rfl, by rw [hslot]; exact fun _ => rfl,
    by rw [hslot]; exact fun _ _ => rfl⟩

/-! Destination 0 (R233). -/

theorem getElem_set_fin {α : Type} {n : Nat} (v : Vector α n) (i j : Fin n) (x : α) :
    (v.set i.val x i.isLt)[j] = if j = i then x else v[j] := by
  by_cases h : j = i
  · rw [if_pos h, h]
    exact Vector.getElem_set_self i.isLt
  · rw [if_neg h]
    exact Vector.getElem_set_ne _ _ fun hv => h (Fin.ext hv.symm)

/-- The other run with its own source and amount in a slot with destination 0. -/
def Variant.slotted (s : State) (j : SlotIdx) (src : Fin 3) (amount : F32) : Variant :=
  { Variant.same s with slot := s.act.slot.set j.val ⟨src, 0, amount⟩ j.isLt }

theorem Variant.slotted_congr {s t : State} (h : OperandsKept s t) (j : SlotIdx) (src : Fin 3) (amount : F32) :
    Variant.slotted t j src amount = Variant.slotted s j src amount := by
  rw [slotted, slotted, Variant.same_congr h, h.act]

theorem Variant.agrees_slotted {s : State} {j : SlotIdx} (hj : s.act.slot[j].dest = 0) (src : Fin 3) (amount : F32) :
    (Variant.slotted s j src amount).Agrees s.act := by
  have hset (i : SlotIdx) : (Variant.slotted s j src amount).slot[i] = if i = j then ⟨src, 0, amount⟩ else s.act.slot[i] :=
    getElem_set_fin _ _ _ _
  refine ⟨fun _ => rfl, fun _ => rfl, fun _ => rfl, fun _ => rfl, fun _ _ => rfl, fun i => ?dest, fun i hi => ?slot⟩
  case dest =>
    rw [hset]
    split
    next hij => rw [hij, hj]
    next => rfl
  case slot => rw [hset, if_neg (fun hij => hi (by rw [hij, hj]))]

/-- The other run with its own depth in a direct mapping with destination 0. -/
def Variant.mapped (s : State) (k : LfoIdx) (depth : F32) : Variant :=
  { Variant.same s with lfo := s.act.lfo.set k.val { s.act.lfo[k] with ddepth := depth } k.isLt }

theorem Variant.mapped_congr {s t : State} (h : OperandsKept s t) (k : LfoIdx) (depth : F32) :
    Variant.mapped t k depth = Variant.mapped s k depth := by
  rw [mapped, mapped, Variant.same_congr h, h.act]

theorem Variant.agrees_mapped {s : State} {k : LfoIdx} (hk : s.act.lfo[k].ddest = 0) (depth : F32) :
    (Variant.mapped s k depth).Agrees s.act := by
  have hset (i : LfoIdx) : (Variant.mapped s k depth).lfo[i] =
      if i = k then { s.act.lfo[k] with ddepth := depth } else s.act.lfo[i] := getElem_set_fin _ _ _ _
  refine ⟨fun i => ?wave, fun i => ?freq, fun i => ?amount, fun i => ?ddest, fun i hi => ?ddepth,
    fun _ => rfl, fun _ _ => rfl⟩
  case ddepth => rw [hset, if_neg (fun hik => hi (by rw [hik, hk]))]
  all_goals
    rw [hset]
    split
    next hik => rw [hik]
    next => rfl

/-- Settles O30: with destination 0 a row of ROUTE is skipped before its source, amount or depth is read. -/
theorem destinationZeroIsInert : Obligations.DestinationZeroIsInert := by
  refine fun s => ⟨fun j src amount hj => ?slot, fun k depth hk => ?direct⟩
  case slot =>
    intro f
    refine exec_render_commutes (f := f) (Variant.agrees_slotted hj src amount) rfl rfl fun t ht => ?_
    rw [← Variant.slotted_congr ht]
    rfl
  case direct =>
    intro f
    refine exec_render_commutes (f := f) (Variant.agrees_mapped hk depth) rfl rfl fun t ht => ?_
    rw [← Variant.mapped_congr ht]
    rfl

/-! STAGE (R39, R95). -/

/-- The other run with its own STAGE words. -/
def Variant.staged (s : State) (x : Vector Word 164) : Variant := { Variant.same s with stage := x }

theorem Variant.staged_congr {s t : State} (h : OperandsKept s t) (x : Vector Word 164) :
    Variant.staged t x = Variant.staged s x := by rw [staged, staged, Variant.same_congr h]

/-- The state with other STAGE words. -/
def restage (x : Vector Word 164) (s : State) : State := { s with stage := x }

theorem exec_render_restage (x : Vector Word 164) (s : State) :
    exec .render (restage x s) = mapNext (restage x) (exec .render s) := by
  have hagrees : (Variant.staged s x).Agrees s.act := Variant.agrees_of_eq rfl rfl
  refine exec_render_commutes hagrees rfl rfl fun t ht => ?_
  rw [← Variant.staged_congr ht]
  rfl

theorem takeRefusal_restage (flag : ErrFlag) (cause : BitVec 8) (info : BitVec 24) (x : Vector Word 164) (s : State) :
    takeRefusal flag cause info (restage x s) = restage x (takeRefusal flag cause info s) := by
  cases flag <;> rfl

theorem preparedState_restage (x : Vector Word 164) (s : State) :
    preparedState (restage x s) = restage x (preparedState s) := by
  rw [preparedState, preparedState, prepareVoice_eq, prepareVoice_eq]
  rfl

theorem startVoice_restage (note : BitVec 7) (x : Vector Word 164) (s : State) :
    startVoice note (restage x s) = restage x (startVoice note s) := by
  rw [startVoice_eq, startVoice_eq]
  rfl

theorem releaseVoice_restage (x : Vector Word 164) (s : State) :
    releaseVoice (restage x s) = restage x (releaseVoice s) := by
  rw [releaseVoice_eq, releaseVoice_eq]
  rfl

theorem cutVoice_restage (x : Vector Word 164) (s : State) : cutVoice (restage x s) = restage x (cutVoice s) := by
  rw [cutVoice_eq, cutVoice_eq]
  rfl

/-- An instruction that leads both states to next states, the second with the other STAGE words. -/
theorem restage_of_next {i : Instr} {x : Vector Word 164} {s t u : State} (hs : exec i s = .next t)
    (hx : exec i (restage x s) = .next u) (h : u = restage x t) :
    exec i (restage x s) = mapNext (restage x) (exec i s) := by
  rw [hx, hs, h]
  rfl

theorem exec_prepare_restage (x : Vector Word 164) (s : State) :
    exec .prepare (restage x s) = mapNext (restage x) (exec .prepare s) := by
  cases hrate : rateBad (rateOperand s) with
  | true =>
    exact restage_of_next (exec_prepare_of_bad_rate hrate) (exec_prepare_of_bad_rate hrate) (takeRefusal_restage _ _ _ x s)
  | false =>
    cases hsize : blockSizeBad (blockSizeOperand s) with
    | true =>
      exact restage_of_next (exec_prepare_of_bad_size hrate hsize) (exec_prepare_of_bad_size hrate hsize)
        (takeRefusal_restage _ _ _ x s)
    | false =>
      exact restage_of_next (exec_prepare_of_legal hrate hsize) (exec_prepare_of_legal hrate hsize) (preparedState_restage x s)

theorem exec_startnote_restage (note : BitVec 7) (x : Vector Word 164) (s : State) :
    exec (.startnote note) (restage x s) = mapNext (restage x) (exec (.startnote note) s) := by
  cases hprep : s.prepared with
  | true =>
    exact restage_of_next (exec_startnote_of_prepared hprep note) (exec_startnote_of_prepared (s := restage x s) hprep note)
      (startVoice_restage note x s)
  | false =>
    exact restage_of_next (exec_startnote_of_unprepared hprep note) (exec_startnote_of_unprepared (s := restage x s) hprep note)
      (takeRefusal_restage _ _ _ x s)

theorem exec_stopnote_restage (tail : Bool) (x : Vector Word 164) (s : State) :
    exec (.stopnote tail) (restage x s) = mapNext (restage x) (exec (.stopnote tail) s) := by
  cases tail with
  | false => exact restage_of_next (exec_stopnote_cut s) (exec_stopnote_cut _) (cutVoice_restage x s)
  | true =>
    by_cases hidle : s.vstate = .idle
    · exact restage_of_next (exec_stopnote_tail_of_idle hidle) (exec_stopnote_tail_of_idle hidle) rfl
    · exact restage_of_next (exec_stopnote_tail_of_sounding hidle) (exec_stopnote_tail_of_sounding hidle)
        (releaseVoice_restage x s)

theorem exec_ctrl_restage (cc : BitVec 7) (x : Vector Word 164) (s : State) :
    exec (.ctrl cc) (restage x s) = mapNext (restage x) (exec (.ctrl cc) s) := by
  by_cases hcc : cc = 1
  · subst hcc
    cases hfin : isFinite s.arg0 with
    | true => exact restage_of_next (exec_ctrl_wheel_of_finite hfin) (exec_ctrl_wheel_of_finite hfin) rfl
    | false =>
      exact restage_of_next (exec_ctrl_wheel_of_not_finite hfin) (exec_ctrl_wheel_of_not_finite hfin)
        (takeRefusal_restage _ _ _ x s)
  · exact restage_of_next (exec_ctrl_of_ne hcc s) (exec_ctrl_of_ne hcc _) rfl

/-- Settles O51. -/
theorem stageIsInvisibleUntilSetparams : Obligations.StageIsInvisibleUntilSetparams := by
  intro s c x hc
  cases c with
  | nop => rfl
  | prepare => exact exec_prepare_restage x s
  | canplay tag => rfl
  | startnote note => exact exec_startnote_restage note x s
  | stopnote tail => exact exec_stopnote_restage tail x s
  | setparams => exact absurd rfl hc
  | render => exact exec_render_restage x s
  | isactive => rfl
  | ctrl cc => exact exec_ctrl_restage cc x s

/-! A block in two (R345). -/

/-- The frames of a block are those of its first part and then those of its second. -/
theorem renderFrames_add (a b n : Nat) (s : State) :
    renderFrames (a + b) n s = renderFrames b (n + a) (renderFrames a n s) := by
  induction a generalizing n s with
  | zero => rw [Nat.zero_add, Nat.add_zero, renderFrames_zero]
  | succ a ih =>
    by_cases hidle : s.vstate = .idle
    · rw [renderFrames_of_idle _ _ hidle, renderFrames_of_idle _ _ hidle, renderFrames_of_idle _ _ hidle]
    · rw [Nat.add_right_comm, renderFrames_of_sounding _ _ hidle, renderFrames_of_sounding _ _ hidle, ih,
        Nat.add_assoc n 1 a, Nat.add_comm 1 a]

/-- The operand registers of a RENDER. -/
def withOperands (x y : Word) (s : State) : State := { s with arg0 := x, arg1 := y }

/-- The frames from n on are the frames from 0 on of a RENDER that starts n frames later, and read ARG1 and the transient
values nowhere. -/
theorem renderFrames_withOperands {count n : Nat} (hn : n + count ≤ 2 ^ 13) {x : Word} (y : Word) (p : Seq) {s : State}
    (hx : x.toNat = s.arg0.toNat + n) : ∃ q, renderFrames count 0 (withOperands x y (setSeq p s)) =
      withOperands x y (setSeq q (renderFrames count n s)) := by
  have hagrees : ({ Variant.same s with arg0 := x, arg1 := y } : Variant).Agrees s.act := Variant.agrees_of_eq rfl rfl
  obtain ⟨q, hq⟩ := renderFrames_twin (t := withOperands x y (setSeq p s)) hagrees count (m := 0) (by omega)
    hn hx ⟨p, rfl⟩
  have hkept := operandsKept_of_renderWrites (renderFrames_renderWrites count n s)
  refine ⟨q, hq.trans ?_⟩
  rw [← Variant.same_congr hkept]
  rfl

/-- RENDER of the frames from n on, as a RENDER that starts n frames later. -/
theorem exec_render_withOperands {n count : Nat} {x y : Word} (p : Seq) {s : State} (hprep : s.prepared = true)
    (hx : x.toNat = s.arg0.toNat + n) (hy : y.toNat = count) (hrange : x.toNat + count ≤ s.blockSize.toNat) :
    exec .render (withOperands x y (setSeq p s)) = .next (withOperands x y (setSeq Seq.idle (renderFrames count n s))) := by
  have hblock := blockSize_lt s
  obtain ⟨q, hq⟩ := renderFrames_withOperands (count := count) (by omega) y p hx
  have harg : (withOperands x y (setSeq p s)).arg1.toNat = count := hy
  rw [exec_render_of_legal (s := withOperands x y (setSeq p s)) hprep (by rw [harg]; exact hrange), harg, hq]
  rfl

theorem toNat_ofNat_of_block {n : Nat} (s : State) (h : n ≤ s.blockSize.toNat) : (BitVec.ofNat 32 n).toNat = n := by
  have hblock := blockSize_lt s
  rw [BitVec.toNat_ofNat, Nat.mod_eq_of_lt (by omega)]

/-- Settles O46: the second RENDER's frame k is frame a + k of the first, and both read the same registers. -/
theorem consecutiveRendersContinue : Obligations.ConsecutiveRendersContinue := by
  intro s a b hprep hrange
  have hblock := blockSize_lt s
  have hsum := toNat_ofNat_of_block s (n := a + b) (by omega)
  have ha := toNat_ofNat_of_block s (n := a) (by omega)
  have hb := toNat_ofNat_of_block s (n := b) (by omega)
  obtain ⟨h0, -, -, -, hp, hsize⟩ := operandsKept_of_renderWrites (renderFrames_renderWrites a 0 s)
  have hstart : (s.arg0 + BitVec.ofNat 32 a).toNat = s.arg0.toNat + a := by
    rw [BitVec.toNat_add, ha, Nat.mod_eq_of_lt (by omega)]
  have hsecond := exec_render_withOperands (n := a) Seq.idle (hp.trans hprep) (by rw [hstart, h0]) hb
    (by rw [hstart, hsize]; exact hrange)
  have hwhole := renderFrames_add a b 0 s
  rw [Nat.zero_add] at hwhole
  rw [← hwhole] at hsecond
  exact ⟨_, _, exec_render_withOperands (n := 0) s.seq hprep rfl hsum (by omega),
    exec_render_withOperands (n := 0) s.seq hprep rfl ha (by omega), hsecond⟩

end Sys2Proof
end
